-- ==== Sys2Proof/Word.lean ====
section
/-!
DEFINITION. The word types of the machine. Only abbreviations stand here, so that the library's lemmas on bit
vectors apply to them as they are.
-/

namespace Sys2Proof

/-- An unsigned 8-bit value, `u8` of R7: a register's content, a byte of memory, a byte on the data bus (R1). -/
abbrev Byte := BitVec 8

/-- A memory address: `addr` of R7, `ADDR_BITS` = 14 bits wide (R5, R25, R50). -/
abbrev Addr := BitVec 14

/-- An I/O port number: bits D5..D1 of the instruction byte (R51, R89). -/
abbrev Port := BitVec 5

end Sys2Proof
end

