-- ==== Sys2Proof/Syntax.lean ====
section
/-!
DEFINITION. The instructions, one constructor per row of spec/opcode_table.json, with the operands of R84. Register,
condition and operation codes are names here; their bit patterns stand in Decode.lean. Don't-care bits (R94) are no
operands: the encodings that differ in them only are the same instruction.
-/

namespace Sys2Proof

/-- The seven index registers (R21, R22). The field value 111 names no register: it makes the memory form. -/
inductive Reg where
  | A | B | C | D | E | H | L
deriving DecidableEq, Repr

/-- The condition letter c of JFc, JTc, CFc, CTc, RFc and RTc (R36, R97). -/
inductive Cond where
  | C | Z | S | P
deriving DecidableEq, Repr

/-- The eight operations of the field PPP (R130), by their stems (R97). -/
inductive AluOp where
  | ad | ac | su | sb | nd | xr | or | cp
deriving DecidableEq, Repr

/-- How many bytes an instruction has (R80). -/
inductive InsnSize where
  | one | two | three
deriving DecidableEq, Repr

/-- The length as a number of bytes. -/
def InsnSize.bytes : InsnSize → Nat
  | .one => 1
  | .two => 2
  | .three => 3

/-- The instruction set: the 52 rows of spec/opcode_table.json. HLT has two rows and so two constructors; the six first
bytes that no row of the source covers (R93) have three. -/
inductive Instr where
  -- Index register instructions
  | lr1r2 (d s : Reg)
  | lrM (d : Reg)
  | lMr (s : Reg)
  | lrI (d : Reg) (imm : Byte)
  | lMI (imm : Byte)
  | inr (d : Reg)
  | dcr (d : Reg)
  -- Accumulator group
  | adr (r : Reg)
  | adm
  | adi (imm : Byte)
  | acr (r : Reg)
  | acm
  | aci (imm : Byte)
  | sur (r : Reg)
  | sum
  | sui (imm : Byte)
  | sbr (r : Reg)
  | sbm
  | sbi (imm : Byte)
  | ndr (r : Reg)
  | ndm
  | ndi (imm : Byte)
  | xrr (r : Reg)
  | xrm
  | xri (imm : Byte)
  | orr (r : Reg)
  | orm
  | ori (imm : Byte)
  | cpr (r : Reg)
  | cpm
  | cpi (imm : Byte)
  | rlc
  | rrc
  | ral
  | rar
  -- Program counter and stack control
  | jmp (target : Addr)
  | jfc (c : Cond) (target : Addr)
  | jtc (c : Cond) (target : Addr)
  | cal (target : Addr)
  | cfc (c : Cond) (target : Addr)
  | ctc (c : Cond) (target : Addr)
  | ret
  | rfc (c : Cond)
  | rtc (c : Cond)
  | rst (aaa : BitVec 3)
  -- I/O
  | inp (mmm : BitVec 3)
  | out (rr : BitVec 2) (mmm : BitVec 3)
  -- Machine: HLT `00 000 00X` and HLT `11 111 111`
  | hlt
  | hltFF
  -- The unspecified first bytes `00 1xx 010`, 0x38 and 0x39
  | unspecRotate (xx : BitVec 2)
  | unspec38
  | unspec39
deriving DecidableEq, Repr

end Sys2Proof
end

