-- ==== Sys2Proof/Config.lean ====
section
/-!
DEFINITION. What an implementation or a platform fixes: the parameters of R5, each under a name a claim can use, and the
free values. A free value is a constant with no body, so no proof can see what it is; it is applied to a plain counter of
the state, so that two draws need not agree. `MEM_MAP` is data of the state (`State.memMap`), because a claim speaks of
every map at once.
-/

namespace Sys2Proof

/-! ## The parameters of R5 -/

/-- `DATA_BITS`: the width of `Byte`. -/
abbrev Config.dataBits : Nat := 8

/-- `REG_FIELD_BITS`: the width of DDD and SSS. -/
abbrev Config.regFieldBits : Nat := 3

/-- `CODE_M`: the field value that selects memory. -/
abbrev Config.codeM : BitVec 3 := 7

/-- `N_REGS`: how many index registers there are. -/
abbrev Config.nRegs : Nat := 7

/-- `CODE_A` to `CODE_L`: the register at place n has code n (log entry 10). -/
def Config.registers : Vector Reg Config.nRegs := #v[.A, .B, .C, .D, .E, .H, .L]

/-- `ALU_OP`: the operation at place PPP (log entry 11). -/
def Config.aluOps : Vector AluOp 8 := #v[.ad, .ac, .su, .sb, .nd, .xr, .or, .cp]

/-- `COND`: the condition at place CC (log entry 12). -/
def Config.conditions : Vector Cond 4 := #v[.C, .Z, .S, .P]

/-- `PARITY_SENSE`: parity is 1 for an even number of 1 bits (log entry 16). -/
@[simp] abbrev Config.paritySense : Bool := true

/-- `INR_DCR_WRITE_CARRY`: INr and DCr leave the carry alone (log entry 16). -/
@[simp] abbrev Config.inrDcrWriteCarry : Bool := false

/-- `LOGIC_OPS_CARRY`: the carry that ND, XR and OR leave (log entry 16). -/
@[simp] abbrev Config.logicOpsCarry : Bool := false

/-- `ADDR_BITS`: the width of `Addr` (log entry 13). -/
abbrev Config.addrBits : Nat := 14

/-- How many bytes the one memory space has: 2^`ADDR_BITS` (R50). -/
abbrev Config.memBytes : Nat := 2 ^ Config.addrBits

/-- `STACK_REGS`: how many address registers the ring holds, the program counter among them (R29; log entry 14). -/
abbrev Config.stackRegs : Nat := 8

/-- `N_IN_PORTS`: the input ports are 0 up to, not including, this number. -/
abbrev Config.nInPorts : Nat := 8

/-- `N_OUT_PORTS`: the output ports follow the input ports, this many (log entry 25). -/
abbrev Config.nOutPorts : Nat := 24

/-- `MAX_INSN_BYTES`: the longest instruction. -/
abbrev Config.maxInsnBytes : Nat := 3

/-- `UNSPECIFIED_OPCODES`: the six first bytes that no row of the source covers (R93; log entry 19). -/
def Config.unspecifiedOpcodes : List Byte := [0x22, 0x2A, 0x32, 0x3A, 0x38, 0x39]

/-- `RESET_STATE`, the index registers and IR (log entry 29). -/
abbrev Config.resetByte : Byte := 0x00

/-- `RESET_STATE`, the stack entries, and so PC (log entry 29). -/
abbrev Config.resetAddr : Addr := 0x0000

/-- `RESET_STATE`, the stopped state (log entry 29). -/
abbrev Config.resetStopped : Bool := true

/-- The default of `JAMMED_INSN` at start-up: `RST 0`, whose entry is address 0 (R262). It is a platform's choice: nothing
in the machine uses it. -/
def Config.startupJam : Byte := 0x05

/-! ## The free values -/

/-- FREE VALUE (log entry 4). The byte the bus carries at the `n`-th draw, when an address is read that the memory map
marks as unpopulated or as a device: "a draw: any byte, and the model must not assume two reads give the same one"
(R52, U8). -/
opaque Config.openBusByte : Nat → Byte

/-- FREE VALUE (log entry 5). The byte an input port supplies at the `n`-th draw, once the bytes listed in
`State.inputs` are used up: "a draw from the outside" (R60, U10). -/
opaque Config.inputByte : Nat → Byte

/-- FREE VALUE (log entry 6). What the interrupting device presents at an instruction boundary once the list
`State.interrupts` is used up: nothing, or an interrupt and the byte it jams (R16, R232, U16, U17). -/
opaque Config.interruptOffer : Nat → Option Byte

/-- FREE VALUE (log entry 33). What the internal data bus carries in the `n`-th of the states T4 and T5, where the source
names no transfer, and in the bits it gives no value (R45, U12, U13). -/
opaque Config.testBusByte : Nat → Byte

end Sys2Proof
end

