-- ==== Sys2Proof/WellFormed.lean ====
section
/-!
DEFINITION. Which instructions have an encoding: the ranges of the free fields that R91 gives and the types of
Syntax.lean do not already hold.
-/

namespace Sys2Proof

/-- INr and DCr have no form for the accumulator (their bytes would be HLT), and OUT has none with RR = 00 (its byte
would be INP) (R91). Every other operand may take every value of its type. -/
def Instr.wellFormed : Instr → Bool
  | .lr1r2 _ _ => true
  | .lrM _ => true
  | .lMr _ => true
  | .lrI _ _ => true
  | .lMI _ => true
  | .inr d => d != .A
  | .dcr d => d != .A
  | .adr _ => true
  | .adm => true
  | .adi _ => true
  | .acr _ => true
  | .acm => true
  | .aci _ => true
  | .sur _ => true
  | .sum => true
  | .sui _ => true
  | .sbr _ => true
  | .sbm => true
  | .sbi _ => true
  | .ndr _ => true
  | .ndm => true
  | .ndi _ => true
  | .xrr _ => true
  | .xrm => true
  | .xri _ => true
  | .orr _ => true
  | .orm => true
  | .ori _ => true
  | .cpr _ => true
  | .cpm => true
  | .cpi _ => true
  | .rlc => true
  | .rrc => true
  | .ral => true
  | .rar => true
  | .jmp _ => true
  | .jfc _ _ => true
  | .jtc _ _ => true
  | .cal _ => true
  | .cfc _ _ => true
  | .ctc _ _ => true
  | .ret => true
  | .rfc _ => true
  | .rtc _ => true
  | .rst _ => true
  | .inp _ => true
  | .out rr _ => rr != 0
  | .hlt => true
  | .hltFF => true
  | .unspecRotate _ => true
  | .unspec38 => true
  | .unspec39 => true

end Sys2Proof
end

