-- ==== Sys2Proof/Decode.lean ====
section
/-!
DEFINITION. Bytes to instructions and back. The decoder is total on bytes (R96): every first byte is one of the 52
rows, and the only thing it rejects, by name, is a list that ends before the instruction does. The bit patterns of
registers (R22), conditions (R36) and operations (R130) stand here, each once for each direction.
-/

namespace Sys2Proof

/-- Why the decoder rejects a list of bytes. The machine never meets one: a fetch reads as many bytes as it needs. -/
inductive DecodeError where
  /-- No first byte. -/
  | noBytes
  /-- The list ends before the second or third byte that the first byte asks for (R80). -/
  | truncated (op : Byte)
deriving DecidableEq, Repr

/-! ## The codes of the fields -/

/-- The 3-bit code of a register in DDD and SSS (R22; log entry 10). -/
def Reg.code : Reg → BitVec 3
  | .A => 0
  | .B => 1
  | .C => 2
  | .D => 3
  | .E => 4
  | .H => 5
  | .L => 6

/-- The register a 3-bit field names, none for 111, which names M (R21, R22). -/
def Reg.ofCode (c : BitVec 3) : Option Reg :=
  Config.registers[c.toNat]?

/-- The 2-bit code CC of a condition (R36; log entry 12). -/
def Cond.code : Cond → BitVec 2
  | .C => 0
  | .Z => 1
  | .S => 2
  | .P => 3

/-- The condition the field CC names (R36). -/
def Cond.ofCode (c : BitVec 2) : Cond :=
  Config.conditions[c.toNat]'c.isLt

/-- The operation number PPP (R97, R130; log entry 11). -/
def AluOp.code : AluOp → BitVec 3
  | .ad => 0
  | .ac => 1
  | .su => 2
  | .sb => 3
  | .nd => 4
  | .xr => 5
  | .or => 6
  | .cp => 7

/-- The operation the field PPP names (R130). -/
def AluOp.ofCode (p : BitVec 3) : AluOp :=
  Config.aluOps[p.toNat]'p.isLt

/-! ## The three forms of the eight operations (R131) -/

/-- "ALU OP r" of the operation (R97). -/
def Instr.aluR : AluOp → Reg → Instr
  | .ad, r => .adr r
  | .ac, r => .acr r
  | .su, r => .sur r
  | .sb, r => .sbr r
  | .nd, r => .ndr r
  | .xr, r => .xrr r
  | .or, r => .orr r
  | .cp, r => .cpr r

/-- "ALU OP M" of the operation (R97). -/
def Instr.aluM : AluOp → Instr
  | .ad => .adm
  | .ac => .acm
  | .su => .sum
  | .sb => .sbm
  | .nd => .ndm
  | .xr => .xrm
  | .or => .orm
  | .cp => .cpm

/-- "ALU OP I" of the operation (R97). -/
def Instr.aluI : AluOp → Byte → Instr
  | .ad, v => .adi v
  | .ac, v => .aci v
  | .su, v => .sui v
  | .sb, v => .sbi v
  | .nd, v => .ndi v
  | .xr, v => .xri v
  | .or, v => .ori v
  | .cp, v => .cpi v

/-! ## The fields of the first byte (R81, R84) -/

/-- D7 D6: the major group (R85). -/
def fieldMajor (op : Byte) : BitVec 2 := op.extractLsb' 6 2

/-- D5 D4 D3: DDD, PPP or AAA. -/
def fieldMid (op : Byte) : BitVec 3 := op.extractLsb' 3 3

/-- D2 D1 D0: SSS or the minor opcode. -/
def fieldLow (op : Byte) : BitVec 3 := op.extractLsb' 0 3

/-- D4 D3: CC. -/
def fieldCC (op : Byte) : BitVec 2 := op.extractLsb' 3 2

/-- D5 is 1: the T of T/F. -/
def fieldT (op : Byte) : Bool := op.extractLsb' 5 1 == 1

/-- D5 D4: RR. -/
def fieldRR (op : Byte) : BitVec 2 := op.extractLsb' 4 2

/-- D3 D2 D1: MMM. -/
def fieldMMM (op : Byte) : BitVec 3 := op.extractLsb' 1 3

/-- The address of format F3: six bits of the third byte above the second byte; bits 7 and 6 of the third byte are
dropped (R58, R87, R180; log entry 13). -/
def assembleAddr (low high : Byte) : Addr := high.extractLsb' 0 6 ++ low

/-- How many bytes an instruction has, from its first byte (R90). -/
def insnSize (op : Byte) : InsnSize :=
  if fieldMajor op = 0 ∧ fieldLow op = 4 then .two
  else if fieldMajor op = 0 ∧ fieldLow op = 6 then .two
  else if fieldMajor op = 1 ∧ op.extractLsb' 0 1 = 0 then .three
  else .one

/-! ## The decoder: R85's table, group by group, the specific row before the general one (R91) -/

/-- Major group 00. -/
def decodeGroup0 (op b2 : Byte) : Instr :=
  match (fieldLow op).toNat with
  | 0 =>
    if fieldMid op = 0 then .hlt
    else match Reg.ofCode (fieldMid op) with
      | some d => .inr d
      | none => .unspec38
  | 1 =>
    if fieldMid op = 0 then .hlt
    else match Reg.ofCode (fieldMid op) with
      | some d => .dcr d
      | none => .unspec39
  | 2 =>
    if fieldT op then .unspecRotate (fieldCC op)
    else match (fieldCC op).toNat with
      | 0 => .rlc
      | 1 => .rrc
      | 2 => .ral
      | _ => .rar
  | 3 => if fieldT op then .rtc (Cond.ofCode (fieldCC op)) else .rfc (Cond.ofCode (fieldCC op))
  | 4 => Instr.aluI (AluOp.ofCode (fieldMid op)) b2
  | 5 => .rst (fieldMid op)
  | 6 =>
    match Reg.ofCode (fieldMid op) with
    | some d => .lrI d b2
    | none => .lMI b2
  | _ => .ret

/-- Major group 01. -/
def decodeGroup1 (op b2 b3 : Byte) : Instr :=
  match (fieldLow op).toNat with
  | 0 =>
    if fieldT op then .jtc (Cond.ofCode (fieldCC op)) (assembleAddr b2 b3)
    else .jfc (Cond.ofCode (fieldCC op)) (assembleAddr b2 b3)
  | 2 =>
    if fieldT op then .ctc (Cond.ofCode (fieldCC op)) (assembleAddr b2 b3)
    else .cfc (Cond.ofCode (fieldCC op)) (assembleAddr b2 b3)
  | 4 => .jmp (assembleAddr b2 b3)
  | 6 => .cal (assembleAddr b2 b3)
  | _ => if fieldRR op = 0 then .inp (fieldMMM op) else .out (fieldRR op) (fieldMMM op)

/-- Major group 10: the ALU operations on a register or on M. -/
def decodeGroup2 (op : Byte) : Instr :=
  match Reg.ofCode (fieldLow op) with
  | some r => Instr.aluR (AluOp.ofCode (fieldMid op)) r
  | none => Instr.aluM (AluOp.ofCode (fieldMid op))

/-- Major group 11: the loads between registers and M, and HLT where both fields are 111. -/
def decodeGroup3 (op : Byte) : Instr :=
  match Reg.ofCode (fieldMid op), Reg.ofCode (fieldLow op) with
  | some d, some s => .lr1r2 d s
  | some d, none => .lrM d
  | none, some s => .lMr s
  | none, none => .hltFF

/-- The instruction that a first byte begins, with the second and third byte where it has them (R92, R96). Bytes it has
no use for are not read. -/
def decodeOp (op b2 b3 : Byte) : Instr :=
  match (fieldMajor op).toNat with
  | 0 => decodeGroup0 op b2
  | 1 => decodeGroup1 op b2 b3
  | 2 => decodeGroup2 op
  | _ => decodeGroup3 op

/-- The instruction at the front of a list of bytes, and the bytes after it (R80, R90, R96). -/
def decode : List Byte → Except DecodeError (Instr × List Byte)
  | [] => .error .noBytes
  | op :: rest =>
    match insnSize op, rest with
    | .one, r => .ok (decodeOp op 0 0, r)
    | .two, b2 :: r => .ok (decodeOp op b2 0, r)
    | .two, [] => .error (.truncated op)
    | .three, b2 :: b3 :: r => .ok (decodeOp op b2 b3, r)
    | .three, [_] => .error (.truncated op)
    | .three, [] => .error (.truncated op)

/-! ## The encoder: the patterns of R85, with 0 for every don't-care bit (R94) -/

/-- A first byte from its three groups of bits as the spec writes it (R6). -/
def byteOf (major : BitVec 2) (mid low : BitVec 3) : Byte := major ++ mid ++ low

/-- D5 D4 D3 of a conditional instruction: the T/F bit above CC (R84). -/
def midOfCond (t : BitVec 1) (c : Cond) : BitVec 3 := t ++ c.code

/-- The second and third byte of format F3 (R83). -/
def addrBytes (target : Addr) : List Byte := [target.extractLsb' 0 8, (target.extractLsb' 8 6).zeroExtend 8]

/-- The byte `01 RRM MM1` of INP (RR = 00) and OUT (R81). -/
def ioByte (rr : BitVec 2) (mmm : BitVec 3) : Byte := 1#2 ++ rr ++ mmm ++ 1#1

/-- The byte of "ALU OP r" (R131). -/
def encodeAluR (p : AluOp) (r : Reg) : List Byte := [byteOf 2 p.code r.code]

/-- The byte of "ALU OP M" (R131). -/
def encodeAluM (p : AluOp) : List Byte := [byteOf 2 p.code 7]

/-- The bytes of "ALU OP I" (R131). -/
def encodeAluI (p : AluOp) (v : Byte) : List Byte := [byteOf 0 p.code 4, v]

/-- The bytes of an instruction, the first byte first (R58, R85). -/
def encode : Instr → List Byte
  | .lr1r2 d s => [byteOf 3 d.code s.code]
  | .lrM d => [byteOf 3 d.code 7]
  | .lMr s => [byteOf 3 7 s.code]
  | .lrI d imm => [byteOf 0 d.code 6, imm]
  | .lMI imm => [byteOf 0 7 6, imm]
  | .inr d => [byteOf 0 d.code 0]
  | .dcr d => [byteOf 0 d.code 1]
  | .adr r => encodeAluR .ad r
  | .adm => encodeAluM .ad
  | .adi v => encodeAluI .ad v
  | .acr r => encodeAluR .ac r
  | .acm => encodeAluM .ac
  | .aci v => encodeAluI .ac v
  | .sur r => encodeAluR .su r
  | .sum => encodeAluM .su
  | .sui v => encodeAluI .su v
  | .sbr r => encodeAluR .sb r
  | .sbm => encodeAluM .sb
  | .sbi v => encodeAluI .sb v
  | .ndr r => encodeAluR .nd r
  | .ndm => encodeAluM .nd
  | .ndi v => encodeAluI .nd v
  | .xrr r => encodeAluR .xr r
  | .xrm => encodeAluM .xr
  | .xri v => encodeAluI .xr v
  | .orr r => encodeAluR .or r
  | .orm => encodeAluM .or
  | .ori v => encodeAluI .or v
  | .cpr r => encodeAluR .cp r
  | .cpm => encodeAluM .cp
  | .cpi v => encodeAluI .cp v
  | .rlc => [byteOf 0 0 2]
  | .rrc => [byteOf 0 1 2]
  | .ral => [byteOf 0 2 2]
  | .rar => [byteOf 0 3 2]
  | .jmp t => byteOf 1 0 4 :: addrBytes t
  | .jfc c t => byteOf 1 (midOfCond 0 c) 0 :: addrBytes t
  | .jtc c t => byteOf 1 (midOfCond 1 c) 0 :: addrBytes t
  | .cal t => byteOf 1 0 6 :: addrBytes t
  | .cfc c t => byteOf 1 (midOfCond 0 c) 2 :: addrBytes t
  | .ctc c t => byteOf 1 (midOfCond 1 c) 2 :: addrBytes t
  | .ret => [byteOf 0 0 7]
  | .rfc c => [byteOf 0 (midOfCond 0 c) 3]
  | .rtc c => [byteOf 0 (midOfCond 1 c) 3]
  | .rst aaa => [byteOf 0 aaa 5]
  | .inp mmm => [ioByte 0 mmm]
  | .out rr mmm => [ioByte rr mmm]
  | .hlt => [byteOf 0 0 0]
  | .hltFF => [byteOf 3 7 7]
  | .unspecRotate xx => [byteOf 0 (1#1 ++ xx) 2]
  | .unspec38 => [byteOf 0 7 0]
  | .unspec39 => [byteOf 0 7 1]

/-! ## The table of spec/opcode_table.json, as R96 describes it -/

/-- One row: the first bytes with `op & mask = pattern`, less those where a field (its lowest bit and its width) holds an
excluded value. -/
structure OpcodeRow where
  pattern : Byte
  mask : Byte
  excluded : List (Nat × Nat × List Nat)
deriving DecidableEq, Repr

/-- The row covers a first byte (R96). -/
def OpcodeRow.covers (r : OpcodeRow) (op : Byte) : Bool :=
  (op &&& r.mask == r.pattern) &&
    r.excluded.all (fun e => !(e.2.2.contains (op.extractLsb' e.1 e.2.1).toNat))

/-- Rows 0 to 6: index register instructions. -/
def opcodeRowsIndex : List OpcodeRow :=
  [⟨0xC0, 0xC0, [(3, 3, [7]), (0, 3, [7])]⟩, ⟨0xC7, 0xC7, [(3, 3, [7])]⟩, ⟨0xF8, 0xF8, [(0, 3, [7])]⟩,
    ⟨0x06, 0xC7, [(3, 3, [7])]⟩, ⟨0x3E, 0xFF, []⟩, ⟨0x00, 0xC7, [(3, 3, [0, 7])]⟩, ⟨0x01, 0xC7, [(3, 3, [0, 7])]⟩]

/-- Rows 7 to 18: accumulator group, AD to SB. -/
def opcodeRowsAlu1 : List OpcodeRow :=
  [⟨0x80, 0xF8, [(0, 3, [7])]⟩, ⟨0x87, 0xFF, []⟩, ⟨0x04, 0xFF, []⟩, ⟨0x88, 0xF8, [(0, 3, [7])]⟩, ⟨0x8F, 0xFF, []⟩,
    ⟨0x0C, 0xFF, []⟩, ⟨0x90, 0xF8, [(0, 3, [7])]⟩, ⟨0x97, 0xFF, []⟩, ⟨0x14, 0xFF, []⟩,
    ⟨0x98, 0xF8, [(0, 3, [7])]⟩, ⟨0x9F, 0xFF, []⟩, ⟨0x1C, 0xFF, []⟩]

/-- Rows 19 to 30: accumulator group, ND to CP. -/
def opcodeRowsAlu2 : List OpcodeRow :=
  [⟨0xA0, 0xF8, [(0, 3, [7])]⟩, ⟨0xA7, 0xFF, []⟩, ⟨0x24, 0xFF, []⟩, ⟨0xA8, 0xF8, [(0, 3, [7])]⟩, ⟨0xAF, 0xFF, []⟩,
    ⟨0x2C, 0xFF, []⟩, ⟨0xB0, 0xF8, [(0, 3, [7])]⟩, ⟨0xB7, 0xFF, []⟩, ⟨0x34, 0xFF, []⟩,
    ⟨0xB8, 0xF8, [(0, 3, [7])]⟩, ⟨0xBF, 0xFF, []⟩, ⟨0x3C, 0xFF, []⟩]

/-- Rows 31 to 34: rotates. -/
def opcodeRowsRotate : List OpcodeRow :=
  [⟨0x02, 0xFF, []⟩, ⟨0x0A, 0xFF, []⟩, ⟨0x12, 0xFF, []⟩, ⟨0x1A, 0xFF, []⟩]

/-- Rows 35 to 44: program counter and stack control. -/
def opcodeRowsControl : List OpcodeRow :=
  [⟨0x44, 0xC7, []⟩, ⟨0x40, 0xE7, []⟩, ⟨0x60, 0xE7, []⟩, ⟨0x46, 0xC7, []⟩, ⟨0x42, 0xE7, []⟩, ⟨0x62, 0xE7, []⟩,
    ⟨0x07, 0xC7, []⟩, ⟨0x03, 0xE7, []⟩, ⟨0x23, 0xE7, []⟩, ⟨0x05, 0xC7, []⟩]

/-- Rows 45 to 51: input/output, HLT and the unspecified first bytes. -/
def opcodeRowsRest : List OpcodeRow :=
  [⟨0x41, 0xF1, []⟩, ⟨0x41, 0xC1, [(4, 2, [0])]⟩, ⟨0x00, 0xFE, []⟩, ⟨0xFF, 0xFF, []⟩, ⟨0x22, 0xE7, []⟩,
    ⟨0x38, 0xFF, []⟩, ⟨0x39, 0xFF, []⟩]

/-- The 52 rows, in the table's order. -/
def opcodeRows : List OpcodeRow :=
  opcodeRowsIndex ++ opcodeRowsAlu1 ++ opcodeRowsAlu2 ++ opcodeRowsRotate ++ opcodeRowsControl ++ opcodeRowsRest

/-- Which row of the table an instruction is, counted from 0. -/
def Instr.row : Instr → Nat
  | .lr1r2 _ _ => 0
  | .lrM _ => 1
  | .lMr _ => 2
  | .lrI _ _ => 3
  | .lMI _ => 4
  | .inr _ => 5
  | .dcr _ => 6
  | .adr _ => 7
  | .adm => 8
  | .adi _ => 9
  | .acr _ => 10
  | .acm => 11
  | .aci _ => 12
  | .sur _ => 13
  | .sum => 14
  | .sui _ => 15
  | .sbr _ => 16
  | .sbm => 17
  | .sbi _ => 18
  | .ndr _ => 19
  | .ndm => 20
  | .ndi _ => 21
  | .xrr _ => 22
  | .xrm => 23
  | .xri _ => 24
  | .orr _ => 25
  | .orm => 26
  | .ori _ => 27
  | .cpr _ => 28
  | .cpm => 29
  | .cpi _ => 30
  | .rlc => 31
  | .rrc => 32
  | .ral => 33
  | .rar => 34
  | .jmp _ => 35
  | .jfc _ _ => 36
  | .jtc _ _ => 37
  | .cal _ => 38
  | .cfc _ _ => 39
  | .ctc _ _ => 40
  | .ret => 41
  | .rfc _ => 42
  | .rtc _ => 43
  | .rst _ => 44
  | .inp _ => 45
  | .out _ _ => 46
  | .hlt => 47
  | .hltFF => 48
  | .unspecRotate _ => 49
  | .unspec38 => 50
  | .unspec39 => 51

/-! ## Words as spec/opcode_table.json numbers them -/

/-- The three bytes of a table word of `nbits` bits, the first byte in bits 7..0, every bit from `nbits` on zero. -/
def wordBytes (nbits w : Nat) : Byte × Byte × Byte :=
  let v := w % 2 ^ nbits
  (BitVec.ofNat 8 v, BitVec.ofNat 8 (v / 256), BitVec.ofNat 8 (v / 65536))

/-- What the decoder reads from a table word: the instruction, none where it rejects the bytes. -/
def decodeTableWord (nbits w : Nat) : Option Instr :=
  match wordBytes nbits w with
  | (b1, b2, b3) =>
    match decode [b1, b2, b3] with
    | .ok (i, _) => some i
    | .error _ => none

end Sys2Proof
end

