-- ==== Sys2Proof/Machine/State.lean ====
section
/-!
DEFINITION. The state of the machine as plain data, the reasons a step can stop, and the state after power-up. The
fields up to `cycle` are the state R20 gives the processor; `mem` and `memMap` are the platform's memory (R47, R57);
the fields after them are the model's own: what the outside offers, a counter of free values, and the record of what
the outside saw.
-/

namespace Sys2Proof.Machine

/-- The states T1..T5 of a memory cycle (R14, R40). -/
inductive TState where
  | T1 | T2 | T3 | T4 | T5
deriving DecidableEq, Repr

/-- Which memory cycle of an instruction (R14, R40). -/
inductive Cycle where
  | one | two | three
deriving DecidableEq, Repr

/-- The two kinds of memory read: the PCI cycle that begins an instruction, and every other read, a PCR cycle (R9, R56). -/
inductive ReadKind where
  | pci | pcr
deriving DecidableEq, Repr

/-- What the memory map says stands at an address (R52, R57). -/
inductive MemKind where
  /-- RAM: a read gives the last byte written, or the initial content (R66). -/
  | ram
  /-- ROM with content: a write is lost (R53). -/
  | rom
  /-- Nothing: a read is a draw and a write is lost (R52, R53). -/
  | unpopulated
  /-- A device, or memory another agent writes: a read is a draw (R52, R72), a write changes no later read. -/
  | device
deriving DecidableEq, Repr

/-- One range of the memory map: the addresses from `base` up to, not including, `base + size`. -/
structure Region where
  base : Nat
  size : Nat
  kind : MemKind
deriving DecidableEq, Repr

/-- What the outside sees of a memory or I/O cycle: the entries of the event history of R73. -/
inductive Event where
  /-- A `MemRead`: PCI or PCR, and the address. -/
  | read (kind : ReadKind) (addr : Addr)
  /-- A `MemWrite`, a PCW cycle: the address and the byte. -/
  | write (addr : Addr) (value : Byte)
  /-- An `IOIn`, the PCC cycle of INP: the port, the accumulator shown, the flags shown on D3..D0 and the byte taken. -/
  | input (port : Port) (aout : Byte) (flags : BitVec 4) (value : Byte)
  /-- An `IOOut`, the PCC cycle of OUT: the port and the byte sent. -/
  | output (port : Port) (value : Byte)
deriving DecidableEq, Repr

/-- What the data bus shows of the inside of the processor in a state T4 or T5, the test output of note 3 (R3, R45,
R244). -/
structure BusSample where
  cycle : Cycle
  tstate : TState
  value : Byte
deriving DecidableEq, Repr

/-- Memory: the bytes that differ from what an unlisted address reads as, by rising address. `Memory.wf` says the
canonical form. -/
abbrev Memory := List Host.Cell

/-- The whole state of the machine. -/
structure State where
  /-- The index registers, 8 bits each; A is the accumulator (R20, R21, R23). -/
  rA : Byte
  rB : Byte
  rC : Byte
  rD : Byte
  rE : Byte
  rH : Byte
  rL : Byte
  /-- The address stack: eight address registers in a ring (R29). -/
  stk : Vector Addr Config.stackRegs
  /-- Which entry of the address stack is the program counter: 3 bits (R20, R29). -/
  sp : Fin 8
  /-- The condition flip-flops carry, zero, sign and parity (R32). -/
  fC : Bool
  fZ : Bool
  fS : Bool
  fP : Bool
  /-- The instruction register (R38). -/
  ir : Byte
  /-- The temporary registers "Reg. a" and "Reg. b" (R39). -/
  tmpA : Byte
  tmpB : Byte
  /-- The processor is halted (R41). -/
  stopped : Bool
  /-- The state counter and the cycle number between steps (R40; log entry 9). -/
  tstate : TState
  cycle : Cycle
  /-- The platform's memory (R47, R50). -/
  mem : Memory
  /-- The platform's memory map `MEM_MAP`: the first range that holds an address says its kind, and an address in no
  range is RAM (R57; log entry 7). No step changes it. -/
  memMap : List Region
  /-- What the interrupting device offers at the coming instruction boundaries, the next one first: no interrupt, or an
  interrupt and the byte it jams; beyond the list the offers are free (R16, R232, R239; log entry 6). -/
  interrupts : List (Option Byte)
  /-- How many free offers have been drawn beyond the list (log entry 6). -/
  offersDrawn : Nat
  /-- The bytes the outside supplies at the coming INPs, the next one first; beyond the list they are free (R60; log
  entry 5). -/
  inputs : List Byte
  /-- How many free values have been drawn (log entries 4 and 5). -/
  draws : Nat
  /-- The event history, the newest event first (R73). -/
  events : List Event
  /-- The test output: what the data bus showed in the states T4 and T5, the newest first (R45; log entries 27 and
  33). -/
  testBus : List BusSample
  /-- How many states T1..T5 the instructions so far have taken (R267; log entry 28). -/
  states : Nat
deriving DecidableEq, Repr

/-- The faults of the hardware: none. No instruction traps, faults or aborts, and no address is invalid (R230; log entry
21), so this type has no constructor: that no step ends in a fault is safe to rely on only as far as R230 is. -/
inductive Fault where
deriving DecidableEq, Repr

/-- Why the model gives a step no meaning (R12). Every refusal is safe: nothing is provable past it. -/
inductive Refusal where
  /-- Raised by an arm of `exec` whose instruction has no meaning yet (no arm is one now). Safe. -/
  | notModelled (mnemonic : String)
  /-- Raised by the meanings of the six first bytes that no row of the source covers (R93). Safe: the chip does something
  with them, and no source says what. -/
  | unspecifiedOpcode (op : Byte)
  /-- Raised at an interrupt whose jammed byte begins a two- or three-byte instruction (R238). Safe: what the chip does
  with the further bytes is not settled by any source. -/
  | multiByteJam (op : Byte)
deriving DecidableEq, Repr

/-- The machine right after power-up (R46, R261): index registers, stack and instruction register clear, stopped. The
flags, SP and the temporaries are unspecified there and zero here (log entries 2 and 3); the state counter is that of a
halted processor (log entry 9); the platform's fields are empty (log entries 1, 5, 6 and 7). -/
def State.reset : State where
  rA := Config.resetByte
  rB := Config.resetByte
  rC := Config.resetByte
  rD := Config.resetByte
  rE := Config.resetByte
  rH := Config.resetByte
  rL := Config.resetByte
  stk := Vector.replicate Config.stackRegs Config.resetAddr
  sp := 0
  fC := false
  fZ := false
  fS := false
  fP := false
  ir := Config.resetByte
  tmpA := 0
  tmpB := 0
  stopped := Config.resetStopped
  tstate := .T3
  cycle := .one
  mem := []
  memMap := []
  interrupts := []
  offersDrawn := 0
  inputs := []
  draws := 0
  events := []
  testBus := []
  states := 0

end Sys2Proof.Machine
end

