-- ==== Sys2Proof/Machine/Flags.lean ====
section
/-!
DEFINITION. The condition flip-flops: what each computation leaves in them, how an instruction tests one, and how INP
shows them to the outside.
-/

namespace Sys2Proof.Machine

/-- `Parity(v)` of R35: true when `v` has an even number of 1 bits (`PARITY_SENSE` of R5; log entry 16). -/
def parity (v : Byte) : Bool :=
  ((v[0].toNat + v[1].toNat + v[2].toNat + v[3].toNat + v[4].toNat + v[5].toNat + v[6].toNat + v[7].toNat) % 2 == 0) ==
    Config.paritySense

/-- `SetZSP(v)` of R35: zero, sign and parity from a result; the carry is left alone. -/
def State.setZSP (s : State) (v : Byte) : State :=
  { s with fZ := v == 0, fS := v[7], fP := parity v }

/-- The carry flip-flop alone (R33). -/
def State.setFC (s : State) (c : Bool) : State := { s with fC := c }

/-- `Cond(cc)` of R36: the flip-flop a condition names. -/
def State.cond (s : State) : Cond → Bool
  | .C => s.fC
  | .Z => s.fZ
  | .S => s.fS
  | .P => s.fP

/-- The flip-flops as INP shows them at T4 of its I/O cycle: "S at D0, Z at D1, P at D2, C at D3" (R32, R210). What
D7..D4 carry is open (U12), so only the four bits are kept. -/
def State.flagNibble (s : State) : BitVec 4 :=
  BitVec.ofBool s.fC ++ BitVec.ofBool s.fP ++ BitVec.ofBool s.fZ ++ BitVec.ofBool s.fS

end Sys2Proof.Machine
end

