-- ==== Sys2Proof/Machine/Operands.lean ====
section
/-!
DEFINITION. The operands an instruction names: index registers, the program counter, the address of M, the restart
address and the port number.
-/

namespace Sys2Proof.Machine

/-- `x[i]` of R8: the content of an index register. -/
def State.reg (s : State) : Reg → Byte
  | .A => s.rA
  | .B => s.rB
  | .C => s.rC
  | .D => s.rD
  | .E => s.rE
  | .H => s.rH
  | .L => s.rL

/-- `x[i] <- v` of R8. -/
def State.setReg (s : State) (r : Reg) (v : Byte) : State :=
  match r with
  | .A => { s with rA := v }
  | .B => { s with rB := v }
  | .C => { s with rC := v }
  | .D => { s with rD := v }
  | .E => { s with rE := v }
  | .H => { s with rH := v }
  | .L => { s with rL := v }

/-- The program counter is the stack entry SP names (R29). -/
def State.pc (s : State) : Addr := s.stk[s.sp]

/-- `PC <- a`: the entry SP names is written, the seven others stay (R26, R29). -/
def State.setPc (s : State) (a : Addr) : State :=
  { s with stk := s.stk.set s.sp.val a s.sp.isLt }

/-- `MAddr()` of R54: the lower six bits of H above L. Bits 7 and 6 of H take no part (log entry 13). -/
def State.mAddr (s : State) : Addr := s.rH.extractLsb' 0 6 ++ s.rL

/-- The restart address of RST: AAA in bits 5..3, every other bit zero (R64, R88). -/
def restartAddr (aaa : BitVec 3) : Addr := 0#8 ++ aaa ++ 0#3

/-- The port number, bits D5..D1 of the instruction byte: RR above MMM (R51, R89). -/
def portOf (rr : BitVec 2) (mmm : BitVec 3) : Port := rr ++ mmm

end Sys2Proof.Machine
end

