-- ==== Sys2Proof/Machine/Ops.lean ====
section
/-!
DEFINITION. The named operations the instructions share: memory in its canonical form, the memory and I/O cycles with
what the outside sees of them, the address stack, the entry of an interrupt, and the end of an instruction.
-/

namespace Sys2Proof.Machine

/-! ## Memory -/

/-- What an address that memory does not list reads as (log entry 1). -/
def Memory.blank : Byte := 0x00

/-- The byte memory holds at an address (R50). -/
def Memory.read : Memory → Nat → Byte
  | [], _ => Memory.blank
  | (k, w) :: rest, a => if k = a then w else Memory.read rest a

/-- Memory with one byte written, in the canonical form: writing what an unlisted address reads as removes the entry. -/
def Memory.write : Memory → Nat → Byte → Memory
  | [], a, v => if v = Memory.blank then [] else [(a, v)]
  | (k, w) :: rest, a, v =>
    if k < a then (k, w) :: Memory.write rest a v
    else if k = a then (if v = Memory.blank then rest else (a, v) :: rest)
    else if v = Memory.blank then (k, w) :: rest
    else (a, v) :: (k, w) :: rest

/-- The canonical form from address `lo` on: addresses rise, lie in the address space, and no entry is blank. -/
def Memory.wfFrom (lo : Nat) : Memory → Bool
  | [] => true
  | (k, w) :: rest =>
    decide (lo ≤ k) && decide (k < Config.memBytes) && (w != Memory.blank) && Memory.wfFrom (k + 1) rest

/-- The canonical form of memory. -/
def Memory.wf (m : Memory) : Bool := Memory.wfFrom 0 m

/-- The kind of an address in a memory map: that of the first range that holds it, RAM where none does (R57; log entry
7). -/
def kindIn : List Region → Nat → MemKind
  | [], _ => .ram
  | r :: rest, a => if r.base ≤ a ∧ a < r.base + r.size then r.kind else kindIn rest a

/-- What stands at an address (R57). -/
def State.kindAt (s : State) (a : Addr) : MemKind := kindIn s.memMap a.toNat

/-! ## What the outside sees and supplies -/

/-- Adds an event to the history (R73). -/
def State.log (s : State) (e : Event) : State := { s with events := e :: s.events }

/-- A draw: a byte nothing constrains, and the counter moved on, so that the next draw need not agree (R52). -/
def State.drawBus (s : State) : Byte × State :=
  (Config.openBusByte s.draws, { s with draws := s.draws + 1 })

/-- The byte the outside supplies at an INP: the next one listed, else a draw (R60). -/
def State.nextInput (s : State) : Byte × State :=
  match s.inputs with
  | v :: rest => (v, { s with inputs := rest })
  | [] => (Config.inputByte s.draws, { s with draws := s.draws + 1 })

/-- What the interrupting device presents at this instruction boundary, the next offer listed or else a free one, and the
state with the offer taken (R16, R232). -/
def State.nextOffer (s : State) : Option Byte × State :=
  match s.interrupts with
  | o :: rest => (o, { s with interrupts := rest })
  | [] => (Config.interruptOffer s.offersDrawn, { s with offersDrawn := s.offersDrawn + 1 })

/-! ## Memory and I/O cycles -/

/-- `MemRead(addr, 1)`: one PCI or PCR cycle (R9, R52). -/
def State.memRead (s : State) (k : ReadKind) (a : Addr) : Byte × State :=
  match s.kindAt a with
  | .ram => (s.mem.read a.toNat, s.log (.read k a))
  | .rom => (s.mem.read a.toNat, s.log (.read k a))
  | .unpopulated => (s.log (.read k a)).drawBus
  | .device => (s.log (.read k a)).drawBus

/-- `MemWrite(addr, 1, v)`: one PCW cycle; the write is lost where there is no RAM (R9, R53). -/
def State.memWrite (s : State) (a : Addr) (v : Byte) : State :=
  match s.kindAt a with
  | .ram => { s.log (.write a v) with mem := s.mem.write a.toNat v }
  | .rom => s.log (.write a v)
  | .unpopulated => s.log (.write a v)
  | .device => s.log (.write a v)

/-- `IOIn(port, aout, flags)`: the PCC cycle of INP; the outside sees A and the flags as they stand and supplies a byte
(R9, R60). -/
def State.ioIn (s : State) (port : Port) : Byte × State :=
  match s.nextInput with
  | (v, s1) => (v, s1.log (.input port s.rA s.flagNibble v))

/-- `IOOut(port, v)`: the PCC cycle of OUT (R9, R61). READY is assumed to come (R71; log entry 22). -/
def State.ioOut (s : State) (port : Port) (v : Byte) : State := s.log (.output port v)

/-! ## The test output: the data bus in T4 and T5 -/

/-- The bus shows a byte in a state T4 or T5 of a cycle (R45). -/
def State.showBus (s : State) (c : Cycle) (t : TState) (v : Byte) : State :=
  { s with testBus := ⟨c, t, v⟩ :: s.testBus }

/-- What the bus carries next where nothing names it: a free byte, another for each state shown (log entry 33). -/
def State.openByte (s : State) : Byte := Config.testBusByte s.testBus.length

/-- The bus in a state in which the source names no transfer of a register (U13). -/
def State.showOpen (s : State) (c : Cycle) (t : TState) : State := s.showBus c t s.openByte

/-- The bus in T4 and T5 of a cycle that names no transfer in either. -/
def State.showOpens (s : State) (c : Cycle) : State := (s.showOpen c .T4).showOpen c .T5

/-- The bus in a state for which only the bits `known` of the byte are given (U12; log entry 33). -/
def State.showBits (s : State) (c : Cycle) (t : TState) (v known : Byte) : State :=
  s.showBus c t ((v &&& known) ||| (s.openByte &&& ~~~known))

/-! ## Temporaries and the address stack -/

/-- Temporary register a (R39). -/
def State.setTmpA (s : State) (v : Byte) : State := { s with tmpA := v }

/-- Temporary register b (R39). -/
def State.setTmpB (s : State) (v : Byte) : State := { s with tmpB := v }

/-- "SSS TO REG. b", T4 of cycle one (R39). -/
def State.regToB (s : State) (r : Reg) : State := (s.showBus .one .T4 (s.reg r)).setTmpB (s.reg r)

/-- "REG. b TO DDD", T5 of a cycle (R39). -/
def State.bToReg (s : State) (c : Cycle) (d : Reg) : State := (s.showBus c .T5 s.tmpB).setReg d s.tmpB

/-- "REG. a TO PCH" and "REG. b TO PCL" as the bus shows them, T4 and T5 of cycle three (R39, R180). -/
def State.showTarget (s : State) : State := (s.showBus .three .T4 s.tmpA).showBus .three .T5 s.tmpB

/-- `Push()` of R30: SP moves on, around the ring; no entry changes (log entry 14). -/
def State.push (s : State) : State := { s with sp := s.sp + 1 }

/-- `Pop()` of R31: SP moves back, around the ring; no entry changes. It is also the return from an interrupt routine
(R235). -/
def State.pop (s : State) : State := { s with sp := s.sp - 1 }

/-- A call: the old entry keeps the return address and the target goes into the new one (R184, R190). -/
def State.call (s : State) (target : Addr) : State := s.push.setPc target

/-- The entry of an interrupt (R232, R233, R239): the stopped state ends, the jammed byte goes to IR and to temporary b
as in a PCI cycle, and nothing is saved: PC, the flags and the index registers stay (R234). -/
def State.acceptInterrupt (s : State) (op : Byte) : State :=
  { s with stopped := false, ir := op, tmpB := op, tstate := .T1, cycle := .one }

/-! ## The end of an instruction -/

/-- The instruction has taken `n` states (R267), and the next state is T1 of the next PCI cycle (R40). -/
def State.complete (s : State) (n : Nat) : State :=
  { s with states := s.states + n, tstate := .T1, cycle := .one }

/-- The instruction halts the processor: STOPPED is set and the state counter stays in T3 of the PCI cycle (R41, R220);
4 states are counted (R267; log entry 26). -/
def State.halt (s : State) : State :=
  { s with stopped := true, states := s.states + 4, tstate := .T3, cycle := .one }

end Sys2Proof.Machine
end

