-- ==== Sys2Proof/Machine/Alu.lean ====
section
/-!
DEFINITION. The ALU function of the accumulator group and its effect on the machine (R130).
-/

namespace Sys2Proof.Machine

/-- What the ALU function gives: the result byte and the carry or borrow. -/
structure AluResult where
  value : Byte
  carry : Bool
deriving DecidableEq, Repr

/-- `ALU(p, x, y, cin)` of R130: sums and differences are wrapped to eight bits, and the carry says whether the exact sum
was above 255 or the exact difference below 0 (log entries 11 and 16). -/
def alu (p : AluOp) (x y : Byte) (cin : Bool) : AluResult :=
  match p with
  | .ad => ⟨BitVec.ofNat 8 (x.toNat + y.toNat), decide (x.toNat + y.toNat > 255)⟩
  | .ac => ⟨BitVec.ofNat 8 (x.toNat + y.toNat + cin.toNat), decide (x.toNat + y.toNat + cin.toNat > 255)⟩
  | .su => ⟨BitVec.ofInt 8 (x.toNat - y.toNat : Int), decide (y.toNat > x.toNat)⟩
  | .sb => ⟨BitVec.ofInt 8 (x.toNat - y.toNat - cin.toNat : Int), decide (y.toNat + cin.toNat > x.toNat)⟩
  | .nd => ⟨x &&& y, Config.logicOpsCarry⟩
  | .xr => ⟨x ^^^ y, Config.logicOpsCarry⟩
  | .or => ⟨x ||| y, Config.logicOpsCarry⟩
  | .cp => ⟨BitVec.ofInt 8 (x.toNat - y.toNat : Int), decide (y.toNat > x.toNat)⟩

/-- The `write` of R130: every operation but compare writes its result to A. -/
def aluWritesA : AluOp → Bool
  | .ad => true
  | .ac => true
  | .su => true
  | .sb => true
  | .nd => true
  | .xr => true
  | .or => true
  | .cp => false

/-- `DoALU(p, y)` of R130: the second operand passes through temporary b (R131); all four flip-flops are written, and A
unless the operation is compare. -/
def State.doAlu (s : State) (p : AluOp) (y : Byte) : State :=
  let r := alu p s.rA y s.fC
  let t := ((s.setTmpB y).setFC r.carry).setZSP r.value
  if aluWritesA p then t.setReg .A r.value else t

/-- "ALU OP r", form r of R131: "SSS TO REG. b" in T4 and the operation in T5 of cycle one, 5 states. -/
def State.aluReg (s : State) (p : AluOp) (r : Reg) : State :=
  (((s.regToB r).showOpen .one .T5).doAlu p (s.reg r)).complete 5

/-- "ALU OP M", form M of R131: one read of the byte M, 8 states. -/
def State.aluMem (s : State) (p : AluOp) : State :=
  match s.memRead .pcr s.mAddr with
  | (v, s1) => ((s1.showOpens .two).doAlu p v).complete 8

/-- "ALU OP I", form I of R131: the immediate has been fetched, 8 states. -/
def State.aluImm (s : State) (p : AluOp) (v : Byte) : State :=
  ((s.showOpens .two).doAlu p v).complete 8

/-- The effect common to the four rotates: A and the carry are written, no other flip-flop (R33, R156); 5 states. -/
def State.rotateTo (s : State) (v : Byte) (c : Bool) : State :=
  (((s.showOpens .one).setReg .A v).setFC c).complete 5

end Sys2Proof.Machine
end

