-- ==== Sys2Proof/Machine/Accumulator.lean ====
section
/-!
DEFINITION. The meanings of the accumulator group: the eight ALU operations in three forms each, and the four rotates. Each
starts after the instruction's bytes have been fetched.
-/

namespace Sys2Proof.Machine

/-- ADr, add, register form (R132). -/
def execAdr (r : Reg) (s : State) : Host.Outcome State Fault Refusal :=
  .next (s.aluReg .ad r)

/-- ADM, add, memory form (R133). -/
def execAdm (s : State) : Host.Outcome State Fault Refusal :=
  .next (s.aluMem .ad)

/-- ADI, add, immediate form (R134). -/
def execAdi (imm : Byte) (s : State) : Host.Outcome State Fault Refusal :=
  .next (s.aluImm .ad imm)

/-- ACr, add with carry, register form (R135). -/
def execAcr (r : Reg) (s : State) : Host.Outcome State Fault Refusal :=
  .next (s.aluReg .ac r)

/-- ACM, add with carry, memory form (R136). -/
def execAcm (s : State) : Host.Outcome State Fault Refusal :=
  .next (s.aluMem .ac)

/-- ACI, add with carry, immediate form (R137). -/
def execAci (imm : Byte) (s : State) : Host.Outcome State Fault Refusal :=
  .next (s.aluImm .ac imm)

/-- SUr, subtract, register form (R138). -/
def execSur (r : Reg) (s : State) : Host.Outcome State Fault Refusal :=
  .next (s.aluReg .su r)

/-- SUM, subtract, memory form (R139). -/
def execSum (s : State) : Host.Outcome State Fault Refusal :=
  .next (s.aluMem .su)

/-- SUI, subtract, immediate form (R140). -/
def execSui (imm : Byte) (s : State) : Host.Outcome State Fault Refusal :=
  .next (s.aluImm .su imm)

/-- SBr, subtract with borrow, register form (R141). -/
def execSbr (r : Reg) (s : State) : Host.Outcome State Fault Refusal :=
  .next (s.aluReg .sb r)

/-- SBM, subtract with borrow, memory form (R142). -/
def execSbm (s : State) : Host.Outcome State Fault Refusal :=
  .next (s.aluMem .sb)

/-- SBI, subtract with borrow, immediate form (R143). -/
def execSbi (imm : Byte) (s : State) : Host.Outcome State Fault Refusal :=
  .next (s.aluImm .sb imm)

/-- NDr, logical and, register form (R144). -/
def execNdr (r : Reg) (s : State) : Host.Outcome State Fault Refusal :=
  .next (s.aluReg .nd r)

/-- NDM, logical and, memory form (R145). -/
def execNdm (s : State) : Host.Outcome State Fault Refusal :=
  .next (s.aluMem .nd)

/-- NDI, logical and, immediate form (R146). -/
def execNdi (imm : Byte) (s : State) : Host.Outcome State Fault Refusal :=
  .next (s.aluImm .nd imm)

/-- XRr, exclusive or, register form (R147). -/
def execXrr (r : Reg) (s : State) : Host.Outcome State Fault Refusal :=
  .next (s.aluReg .xr r)

/-- XRM, exclusive or, memory form (R148). -/
def execXrm (s : State) : Host.Outcome State Fault Refusal :=
  .next (s.aluMem .xr)

/-- XRI, exclusive or, immediate form (R149). -/
def execXri (imm : Byte) (s : State) : Host.Outcome State Fault Refusal :=
  .next (s.aluImm .xr imm)

/-- ORr, logical or, register form (R150). -/
def execOrr (r : Reg) (s : State) : Host.Outcome State Fault Refusal :=
  .next (s.aluReg .or r)

/-- ORM, logical or, memory form (R151). -/
def execOrm (s : State) : Host.Outcome State Fault Refusal :=
  .next (s.aluMem .or)

/-- ORI, logical or, immediate form (R152). -/
def execOri (imm : Byte) (s : State) : Host.Outcome State Fault Refusal :=
  .next (s.aluImm .or imm)

/-- CPr, compare, register form (R153). -/
def execCpr (r : Reg) (s : State) : Host.Outcome State Fault Refusal :=
  .next (s.aluReg .cp r)

/-- CPM, compare, memory form (R154). -/
def execCpm (s : State) : Host.Outcome State Fault Refusal :=
  .next (s.aluMem .cp)

/-- CPI, compare, immediate form (R155). -/
def execCpi (imm : Byte) (s : State) : Host.Outcome State Fault Refusal :=
  .next (s.aluImm .cp imm)

/-- RLC, rotate A left: bit 7 goes to bit 0 and to the carry (R156; log entry 17). -/
def execRlc (s : State) : Host.Outcome State Fault Refusal :=
  .next (s.rotateTo (s.rA.extractLsb' 0 7 ++ s.rA.extractLsb' 7 1) s.rA[7])

/-- RRC, rotate A right: bit 0 goes to bit 7 and to the carry (R157; log entry 17). -/
def execRrc (s : State) : Host.Outcome State Fault Refusal :=
  .next (s.rotateTo (s.rA.extractLsb' 0 1 ++ s.rA.extractLsb' 1 7) s.rA[0])

/-- RAL, rotate A left through the carry: the old carry enters bit 0 (R158; log entry 17). -/
def execRal (s : State) : Host.Outcome State Fault Refusal :=
  .next (s.rotateTo (s.rA.extractLsb' 0 7 ++ BitVec.ofBool s.fC) s.rA[7])

/-- RAR, rotate A right through the carry: the old carry enters bit 7 (R159; log entry 17). -/
def execRar (s : State) : Host.Outcome State Fault Refusal :=
  .next (s.rotateTo (BitVec.ofBool s.fC ++ s.rA.extractLsb' 1 7) s.rA[0])

end Sys2Proof.Machine
end

