-- ==== Sys2Proof/Machine/Control.lean ====
section
/-!
DEFINITION. The meanings of the program counter and stack control instructions. Each starts after the instruction's bytes have been
fetched, so PC is the address of the next instruction, and temporaries a and b hold the bytes of the address (R180), which
the bus shows in T4 and T5 of cycle three where the instruction acts.
-/

namespace Sys2Proof.Machine

/-- JMP (R181): the target goes to PC, 11 states. -/
def execJmp (target : Addr) (s : State) : Host.Outcome State Fault Refusal :=
  .next ((s.showTarget.setPc target).complete 11)

/-- JFc (R182): taken when the flip-flop is 0, 11 states taken and 9 not (R268). -/
def execJfc (c : Cond) (target : Addr) (s : State) : Host.Outcome State Fault Refusal :=
  .next (if s.cond c = false then (s.showTarget.setPc target).complete 11 else s.complete 9)

/-- JTc (R183): taken when the flip-flop is 1, 11 states taken and 9 not (R268). -/
def execJtc (c : Cond) (target : Addr) (s : State) : Host.Outcome State Fault Refusal :=
  .next (if s.cond c = true then (s.showTarget.setPc target).complete 11 else s.complete 9)

/-- CAL (R184): the stack is pushed, PC being the return address, and the target goes to PC, 11 states. -/
def execCal (target : Addr) (s : State) : Host.Outcome State Fault Refusal :=
  .next ((s.showTarget.call target).complete 11)

/-- CFc (R185): a call when the flip-flop is 0, 11 states taken and 9 not (R268). -/
def execCfc (c : Cond) (target : Addr) (s : State) : Host.Outcome State Fault Refusal :=
  .next (if s.cond c = false then (s.showTarget.call target).complete 11 else s.complete 9)

/-- CTc (R186): a call when the flip-flop is 1, 11 states taken and 9 not (R268). -/
def execCtc (c : Cond) (target : Addr) (s : State) : Host.Outcome State Fault Refusal :=
  .next (if s.cond c = true then (s.showTarget.call target).complete 11 else s.complete 9)

/-- RET (R187): the stack is popped, 5 states. -/
def execRet (s : State) : Host.Outcome State Fault Refusal :=
  .next ((s.showOpens .one).pop.complete 5)

/-- RFc (R188): a return when the flip-flop is 0, 5 states taken and 3 not (R268). -/
def execRfc (c : Cond) (s : State) : Host.Outcome State Fault Refusal :=
  .next (if s.cond c = false then (s.showOpens .one).pop.complete 5 else s.complete 3)

/-- RTc (R189): a return when the flip-flop is 1, 5 states taken and 3 not (R268). -/
def execRtc (c : Cond) (s : State) : Host.Outcome State Fault Refusal :=
  .next (if s.cond c = true then (s.showOpens .one).pop.complete 5 else s.complete 3)

/-- RST (R190): zero to temporary a, and a call of AAA times 8, 5 states. Of "REG. b TO PCL" only bits D5..D3 are
shown as known (log entry 33). -/
def execRst (aaa : BitVec 3) (s : State) : Host.Outcome State Fault Refusal :=
  .next (((((s.setTmpA 0).showBus .one .T4 0).showBits .one .T5 s.tmpB 0x38).call (restartAddr aaa)).complete 5)

end Sys2Proof.Machine
end

