-- ==== Sys2Proof/Machine/IndexRegister.lean ====
section
/-!
DEFINITION. The meanings of the index register instructions. Each starts after the instruction's bytes have been fetched: PC is past
them.
-/

namespace Sys2Proof.Machine

/-- Lr1r2 (R111): register to register through temporary b, 5 states. -/
def execLr1r2 (d r : Reg) (s : State) : Host.Outcome State Fault Refusal :=
  .next (((s.regToB r).bToReg .one d).complete 5)

/-- LrM (R112): the byte M to a register, its address formed before the register is written, 8 states. -/
def execLrM (d : Reg) (s : State) : Host.Outcome State Fault Refusal :=
  match s.memRead .pcr s.mAddr with
  | (v, s1) => .next ((((s1.setTmpB v).showOpen .two .T4).bToReg .two d).complete 8)

/-- LMr (R113): a register to M through temporary b, 7 states. -/
def execLMr (r : Reg) (s : State) : Host.Outcome State Fault Refusal :=
  .next (((s.regToB r).memWrite s.mAddr (s.reg r)).complete 7)

/-- LrI (R114): the immediate byte to a register, 8 states. -/
def execLrI (d : Reg) (imm : Byte) (s : State) : Host.Outcome State Fault Refusal :=
  .next ((((s.setTmpB imm).showOpen .two .T4).bToReg .two d).complete 8)

/-- LMI (R115): the immediate byte to M, 9 states. -/
def execLMI (imm : Byte) (s : State) : Host.Outcome State Fault Refusal :=
  .next (((s.setTmpB imm).memWrite s.mAddr imm).complete 9)

/-- The effect common to INr and DCr, T5 of cycle one after an idle T4: a register and zero, sign and parity are written; the
carry `c` of the sum or difference goes to the carry flip-flop only where `INR_DCR_WRITE_CARRY` of R5 says so (R116, R117). -/
def State.countTo (s : State) (d : Reg) (v : Byte) (c : Bool) : State :=
  let t := ((s.showOpens .one).setReg d v).setZSP v
  if Config.inrDcrWriteCarry then t.setFC c else t

/-- INr (R116): one is added to a register, wrapping; zero, sign and parity are written and the carry is not (log entries
16 and 18), 5 states. -/
def execInr (d : Reg) (s : State) : Host.Outcome State Fault Refusal :=
  .next ((s.countTo d (s.reg d + 1) (s.reg d == 0xFF)).complete 5)

/-- DCr (R117): one is subtracted from a register, wrapping; zero, sign and parity are written and the carry is not (log
entries 16 and 18), 5 states. -/
def execDcr (d : Reg) (s : State) : Host.Outcome State Fault Refusal :=
  .next ((s.countTo d (s.reg d - 1) (s.reg d == 0x00)).complete 5)

end Sys2Proof.Machine
end

