-- ==== Sys2Proof/Machine/Io.lean ====
section
/-!
DEFINITION. The meanings of the input/output instructions. Each starts after the instruction's byte has been fetched.
-/

namespace Sys2Proof.Machine

/-- INP (R210): the outside sees A and the flags and supplies a byte, which goes through temporary b to A; no flag is
written, 8 states (log entries 5 and 25). -/
def execInp (mmm : BitVec 3) (s : State) : Host.Outcome State Fault Refusal :=
  match s.ioIn (portOf 0 mmm) with
  | (v, s1) => .next ((((s1.setTmpB v).showBits .two .T4 (0#4 ++ s.flagNibble) 0x0F).bToReg .two .A).complete 8)

/-- OUT (R211): A goes to the port, nothing comes back, 6 states (log entry 25). -/
def execOut (rr : BitVec 2) (mmm : BitVec 3) (s : State) : Host.Outcome State Fault Refusal :=
  .next ((s.ioOut (portOf rr mmm) s.rA).complete 6)

end Sys2Proof.Machine
end

