-- ==== Sys2Proof/Machine/MachineGroup.lean ====
section
/-!
DEFINITION. The meanings of the machine instruction HLT, in its two encodings, and of the six first bytes that have none.
-/

namespace Sys2Proof.Machine

/-- HLT, the encoding `00 000 00X` (R220): the processor stops, PC past the HLT (log entry 26). -/
def execHlt (s : State) : Host.Outcome State Fault Refusal :=
  .next s.halt

/-- HLT, the encoding `11 111 111` (R220): the same. -/
def execHltFF (s : State) : Host.Outcome State Fault Refusal :=
  .next s.halt

/-- The bytes `00 1xx 010`, 0x22, 0x2A, 0x32 and 0x3A, which no row of the source covers (R93, R160; log entry 19). -/
def execUnspecRotate (xx : BitVec 2) (_s : State) : Host.Outcome State Fault Refusal :=
  .refused (.unspecifiedOpcode (0b001#3 ++ xx ++ 0b010#3))

/-- The byte 0x38, which no row of the source covers (R93; log entry 19). -/
def execUnspec38 (_s : State) : Host.Outcome State Fault Refusal :=
  .refused (.unspecifiedOpcode 0x38)

/-- The byte 0x39, which no row of the source covers (R93; log entry 19). -/
def execUnspec39 (_s : State) : Host.Outcome State Fault Refusal :=
  .refused (.unspecifiedOpcode 0x39)

end Sys2Proof.Machine
end

