-- ==== Sys2Proof/Machine/Dispatch.lean ====
section
/-!
DEFINITION. Which meaning each instruction has: one arm per constructor of Instr, each a call of one meaning.
-/

namespace Sys2Proof.Machine

def exec (i : Instr) (s : State) : Host.Outcome State Fault Refusal :=
  match i with
  -- Index register instructions
  | .lr1r2 d r => Sys2Proof.Machine.execLr1r2 d r s
  | .lrM d => Sys2Proof.Machine.execLrM d s
  | .lMr r => Sys2Proof.Machine.execLMr r s
  | .lrI d imm => Sys2Proof.Machine.execLrI d imm s
  | .lMI imm => Sys2Proof.Machine.execLMI imm s
  | .inr d => Sys2Proof.Machine.execInr d s
  | .dcr d => Sys2Proof.Machine.execDcr d s
  -- Accumulator group
  | .adr r => Sys2Proof.Machine.execAdr r s
  | .adm => Sys2Proof.Machine.execAdm s
  | .adi imm => Sys2Proof.Machine.execAdi imm s
  | .acr r => Sys2Proof.Machine.execAcr r s
  | .acm => Sys2Proof.Machine.execAcm s
  | .aci imm => Sys2Proof.Machine.execAci imm s
  | .sur r => Sys2Proof.Machine.execSur r s
  | .sum => Sys2Proof.Machine.execSum s
  | .sui imm => Sys2Proof.Machine.execSui imm s
  | .sbr r => Sys2Proof.Machine.execSbr r s
  | .sbm => Sys2Proof.Machine.execSbm s
  | .sbi imm => Sys2Proof.Machine.execSbi imm s
  | .ndr r => Sys2Proof.Machine.execNdr r s
  | .ndm => Sys2Proof.Machine.execNdm s
  | .ndi imm => Sys2Proof.Machine.execNdi imm s
  | .xrr r => Sys2Proof.Machine.execXrr r s
  | .xrm => Sys2Proof.Machine.execXrm s
  | .xri imm => Sys2Proof.Machine.execXri imm s
  | .orr r => Sys2Proof.Machine.execOrr r s
  | .orm => Sys2Proof.Machine.execOrm s
  | .ori imm => Sys2Proof.Machine.execOri imm s
  | .cpr r => Sys2Proof.Machine.execCpr r s
  | .cpm => Sys2Proof.Machine.execCpm s
  | .cpi imm => Sys2Proof.Machine.execCpi imm s
  | .rlc => Sys2Proof.Machine.execRlc s
  | .rrc => Sys2Proof.Machine.execRrc s
  | .ral => Sys2Proof.Machine.execRal s
  | .rar => Sys2Proof.Machine.execRar s
  -- Program counter and stack control
  | .jmp target => Sys2Proof.Machine.execJmp target s
  | .jfc c target => Sys2Proof.Machine.execJfc c target s
  | .jtc c target => Sys2Proof.Machine.execJtc c target s
  | .cal target => Sys2Proof.Machine.execCal target s
  | .cfc c target => Sys2Proof.Machine.execCfc c target s
  | .ctc c target => Sys2Proof.Machine.execCtc c target s
  | .ret => Sys2Proof.Machine.execRet s
  | .rfc c => Sys2Proof.Machine.execRfc c s
  | .rtc c => Sys2Proof.Machine.execRtc c s
  | .rst aaa => Sys2Proof.Machine.execRst aaa s
  -- Input/output
  | .inp mmm => Sys2Proof.Machine.execInp mmm s
  | .out rr mmm => Sys2Proof.Machine.execOut rr mmm s
  -- Machine, and the unspecified first bytes
  | .hlt => Sys2Proof.Machine.execHlt s
  | .hltFF => Sys2Proof.Machine.execHltFF s
  | .unspecRotate xx => Sys2Proof.Machine.execUnspecRotate xx s
  | .unspec38 => Sys2Proof.Machine.execUnspec38 s
  | .unspec39 => Sys2Proof.Machine.execUnspec39 s

end Sys2Proof.Machine
end

