-- ==== Sys2Proof/Machine/Fetch.lean ====
section
/-!
DEFINITION. How the next instruction comes to run: fetched at the program counter byte by byte, or jammed by an
interrupting device; and how bytes are placed where the next fetch reads them.
-/

namespace Sys2Proof.Machine

/-- `Fetch()` of R27: one byte through PC, and PC on by one, modulo 2^14 (R28; log entry 15). -/
def State.fetchByte (s : State) (k : ReadKind) : Byte × State :=
  match s.memRead k s.pc with
  | (v, s1) => (v, s1.setPc (s1.pc + 1))

/-- Memory cycle one, common to every instruction: the byte goes to IR and to temporary b (R110). -/
def State.fetchOpcode (s : State) : Byte × State :=
  match s.fetchByte .pci with
  | (v, s1) => (v, { s1 with ir := v, tmpB := v })

/-- The second byte, an immediate or the lower address byte: to temporary b (R39, R131, R180). -/
def State.fetchSecond (s : State) : Byte × State :=
  match s.fetchByte .pcr with
  | (v, s1) => (v, s1.setTmpB v)

/-- The third byte, the higher address byte: to temporary a (R39, R180). -/
def State.fetchThird (s : State) : Byte × State :=
  match s.fetchByte .pcr with
  | (v, s1) => (v, s1.setTmpA v)

/-- The whole instruction at PC: the first byte says how many more are fetched (R80, R90). Every byte of an instruction is
read before any other memory cycle of it (R62). -/
def State.fetchInstr (s : State) : Instr × State :=
  match s.fetchOpcode with
  | (op, s1) =>
    match insnSize op with
    | .one => (decodeOp op 0 0, s1)
    | .two =>
      match s1.fetchSecond with
      | (b2, s2) => (decodeOp op b2 0, s2)
    | .three =>
      match s1.fetchSecond with
      | (b2, s2) =>
        match s2.fetchThird with
        | (b3, s3) => (decodeOp op b2 b3, s3)

/-- One instruction, fetched and executed: the last branch of R239. -/
def runFetched (s : State) : Host.Outcome State Fault Refusal :=
  match s.fetchInstr with
  | (i, s1) => exec i s1

/-- The stopped state changes nothing and fetches nothing (R221, R239). -/
def runStopped (s : State) : Host.Outcome State Fault Refusal := .next s

/-- An interrupt: the jammed byte takes the place of the first fetch, PC is not advanced for it, and a byte that begins
a longer instruction is refused (R233, R238, R239; log entry 20). -/
def runJammed (op : Byte) (s : State) : Host.Outcome State Fault Refusal :=
  match insnSize op with
  | .one => exec (decodeOp op 0 0) (s.acceptInterrupt op)
  | .two => .refused (.multiByteJam op)
  | .three => .refused (.multiByteJam op)

/-- One offer more at the front: what the interrupting device presents at the next instruction boundary. -/
def State.offering (s : State) (o : Option Byte) : State := { s with interrupts := o :: s.interrupts }

/-- One byte put into memory from outside, as a platform loads a program; where the memory map has no memory that a fetch
can rely on, the address is made RAM. -/
def State.placeByte (s : State) (a : Addr) (v : Byte) : State :=
  { s with
    mem := s.mem.write a.toNat v
    memMap :=
      match s.kindAt a with
      | .ram => s.memMap
      | .rom => s.memMap
      | .unpopulated => ⟨a.toNat, 1, .ram⟩ :: s.memMap
      | .device => ⟨a.toNat, 1, .ram⟩ :: s.memMap }

/-- Three bytes from PC on (modulo 2^14), the processor running, and no interrupt at the next boundary, so that the next
step fetches and runs them (log entry 8). -/
def State.loadAtPc (s : State) (b1 b2 b3 : Byte) : State :=
  let t := ((s.placeByte s.pc b1).placeByte (s.pc + 1) b2).placeByte (s.pc + 2) b3
  { t with stopped := false, tstate := .T1, cycle := .one, interrupts := none :: s.interrupts }

end Sys2Proof.Machine
end

