-- ==== Sys2Proof/Machine/Step.lean ====
section
/-!
DEFINITION. One step of the machine: one instruction boundary and, where the processor runs, one whole instruction
(R17, R239).
-/

namespace Sys2Proof.Machine

/-- `Step(s, env)` of R239, the environment's choice being the next offer (log entry 6). -/
def step (s : State) : Host.Outcome State Fault Refusal :=
  match s.nextOffer with
  | (some op, s1) => runJammed op s1
  | (none, s1) => if s1.stopped then runStopped s1 else runFetched s1

/-- The state with a table word's instruction where the next step fetches it (log entry 8). -/
def State.withFetchWord (s : State) (nbits w : Nat) : State :=
  match wordBytes nbits w with
  | (b1, b2, b3) => s.loadAtPc b1 b2 b3

end Sys2Proof.Machine
end

