-- ==== Sys2Proof/Safety.lean ====
section
/-!
DEFINITION. The terms in which claims about the machine are made: the invariant of a state between two steps, what an
instruction may leave as it was, what it reads and writes, and the arithmetic of R130 and R35 said in numbers and bits
rather than by the functions of the model.
-/

namespace Sys2Proof.Machine

/-! ## States -/

/-- The state counter between two steps: T1 of a PCI cycle, or, while stopped, T3 of one (R40, R41; log entry 9). -/
abbrev State.AtBoundary (s : State) : Prop :=
  s.cycle = .one ∧ s.tstate = if s.stopped = true then .T3 else .T1

/-- The invariant of the machine: memory is in its canonical form, and the state counter is that of a boundary. -/
abbrev State.Inv (s : State) : Prop := s.mem.wf = true ∧ s.AtBoundary

/-- A state right after power-up as R46 and R261 give it: what they leave unspecified (flags, SP, temporaries) and what
the platform fixes (memory, inputs, interrupts) is left open. -/
abbrev State.PowerUp (s : State) : Prop :=
  s.rA = 0 ∧ s.rB = 0 ∧ s.rC = 0 ∧ s.rD = 0 ∧ s.rE = 0 ∧ s.rH = 0 ∧ s.rL = 0 ∧
    s.stk = Vector.replicate Config.stackRegs 0 ∧ s.ir = 0 ∧ s.stopped = true

/-- What the interrupting device presents `n` boundaries from now: the entry listed, and beyond the list a free choice
(R16, R232; log entry 6). -/
def State.offerAt (s : State) (n : Nat) : Option Byte :=
  match s.interrupts[n]? with
  | some o => o
  | none => Config.interruptOffer (s.offersDrawn + (n - s.interrupts.length))

/-- The state with the offers of `n` boundaries used up: first those listed, then free ones. -/
def State.afterOffers (s : State) (n : Nat) : State :=
  { s with
    interrupts := s.interrupts.drop n
    offersDrawn := s.offersDrawn + (n - s.interrupts.length) }

/-- The interrupting device presents an interrupt with this byte at the coming boundary (R239). -/
abbrev State.Offers (s : State) (op : Byte) : Prop := s.offerAt 0 = some op

/-- No interrupt is presented at the coming boundary. -/
abbrev State.OffersNone (s : State) : Prop := s.offerAt 0 = none

/-- RAM or ROM stands at the address, so that a read gives the byte memory holds (R52). -/
abbrev State.HasMemory (s : State) (a : Addr) : Prop := s.kindAt a = .ram ∨ s.kindAt a = .rom

/-! ## What stays -/

/-- Every index register keeps its content. -/
abbrev SameRegs (s t : State) : Prop := ∀ r, t.reg r = s.reg r

/-- Every index register but one keeps its content. -/
abbrev SameRegsBut (d : Reg) (s t : State) : Prop := ∀ r, r ≠ d → t.reg r = s.reg r

/-- The four condition flip-flops keep their values. -/
abbrev SameFlags (s t : State) : Prop := ∀ c, t.cond c = s.cond c

/-- SP and the eight stack entries, PC among them, keep their values. -/
abbrev SameStack (s t : State) : Prop := t.sp = s.sp ∧ t.stk = s.stk

/-- Every byte of memory reads as before. -/
abbrev SameMem (s t : State) : Prop := ∀ a : Nat, t.mem.read a = s.mem.read a

/-- Every byte of memory reads as before but the one at an address. -/
abbrev SameMemBut (x : Addr) (s t : State) : Prop := ∀ a : Nat, a ≠ x.toNat → t.mem.read a = s.mem.read a

/-- The offers of interrupts to come are the same. -/
abbrev SameOffers (s t : State) : Prop := t.interrupts = s.interrupts ∧ t.offersDrawn = s.offersDrawn

/-- The step has used up the offer of its boundary: the first entry of the list, or a free offer where the list is
empty. -/
abbrev UsedOneOffer (s t : State) : Prop := SameOffers (s.afterOffers 1) t

/-- What only a fetch, an interrupt or HLT changes: the instruction register, STOPPED, the memory map and the offers of
interrupts. -/
abbrev SameControl (s t : State) : Prop :=
  t.ir = s.ir ∧ t.stopped = s.stopped ∧ t.memMap = s.memMap ∧ SameOffers s t

/-- The instruction makes no memory or I/O cycle of its own: no event, no draw, no input byte taken. -/
abbrev NoCycle (s t : State) : Prop := t.events = s.events ∧ t.draws = s.draws ∧ t.inputs = s.inputs

/-- The bus showed nothing in a state T4 or T5: the instruction has no such state, or skips them. -/
abbrev ShowsNothing (s t : State) : Prop := t.testBus = s.testBus

/-- The bus showed two bytes, in T4 and in T5 of a cycle. -/
abbrev ShowsT4T5 (c : Cycle) (v4 v5 : Byte) (s t : State) : Prop :=
  t.testBus = ⟨c, .T5, v5⟩ :: ⟨c, .T4, v4⟩ :: s.testBus

/-- The instruction took `n` states and the machine stands at T1 of the next PCI cycle. -/
abbrev Took (n : Nat) (s t : State) : Prop := t.states = s.states + n ∧ t.cycle = .one ∧ t.tstate = .T1

/-- One memory read cycle at an address took the byte `v`: what memory holds where there is RAM or ROM, a fresh draw where
there is not (R52). -/
abbrev ReadsByte (k : ReadKind) (a : Addr) (v : Byte) (s t : State) : Prop :=
  t.events = .read k a :: s.events ∧ t.inputs = s.inputs ∧
    ((s.HasMemory a ∧ v = s.mem.read a.toNat ∧ t.draws = s.draws) ∨
      (¬ s.HasMemory a ∧ v = Config.openBusByte s.draws ∧ t.draws = s.draws + 1))

/-- The instruction made one PCW cycle that wrote `v` at an address: memory there reads `v` where there is RAM, and as
before where there is not (R53); every other byte reads as before. -/
abbrev WritesByte (a : Addr) (v : Byte) (s t : State) : Prop :=
  t.events = .write a v :: s.events ∧ t.draws = s.draws ∧ t.inputs = s.inputs ∧ SameMemBut a s t ∧
    t.mem.read a.toNat = if s.kindAt a = .ram then v else s.mem.read a.toNat

/-! ## Arithmetic, said without the functions of the model -/

/-- How many bits of a byte are 1. -/
def onesIn (v : Byte) : Nat := ((List.range 8).filter (fun i => v.getLsbD i)).length

/-- Zero, sign and parity are those of a result (R35): zero when it is 0, sign its bit 7, parity when the number of its 1
bits is even. -/
def ZspOf (v : Byte) (t : State) : Prop :=
  (t.fZ = true ↔ v.toNat = 0) ∧ (t.fS = true ↔ 128 ≤ v.toNat) ∧ (t.fP = true ↔ onesIn v % 2 = 0)

/-- The result and the carry that R130 gives an operation, in numbers and bits. -/
def AluGives (p : AluOp) (x y : Byte) (cin : Bool) (r : Byte) (cout : Bool) : Prop :=
  match p with
  | .ad => r.toNat = (x.toNat + y.toNat) % 256 ∧ (cout = true ↔ 255 < x.toNat + y.toNat)
  | .ac => r.toNat = (x.toNat + y.toNat + cin.toNat) % 256 ∧ (cout = true ↔ 255 < x.toNat + y.toNat + cin.toNat)
  | .su => r.toNat = (256 + x.toNat - y.toNat) % 256 ∧ (cout = true ↔ x.toNat < y.toNat)
  | .sb => r.toNat = (512 + x.toNat - y.toNat - cin.toNat) % 256 ∧ (cout = true ↔ x.toNat < y.toNat + cin.toNat)
  | .nd => (∀ i : Nat, r.getLsbD i = (x.getLsbD i && y.getLsbD i)) ∧ cout = false
  | .xr => (∀ i : Nat, r.getLsbD i = (x.getLsbD i != y.getLsbD i)) ∧ cout = false
  | .or => (∀ i : Nat, r.getLsbD i = (x.getLsbD i || y.getLsbD i)) ∧ cout = false
  | .cp => r.toNat = (256 + x.toNat - y.toNat) % 256 ∧ (cout = true ↔ x.toNat < y.toNat)

/-- What `DoALU(p, y)` of R130 leaves: the carry and the other flip-flops of the result, the result in A unless the
operation is compare, and every other index register as it was. -/
def AluEffect (p : AluOp) (y : Byte) (s t : State) : Prop :=
  ∃ r : Byte, AluGives p s.rA y s.fC r t.fC ∧ ZspOf r t ∧ t.rA = (if p = .cp then s.rA else r) ∧ SameRegsBut .A s t

/-! ## Runs -/

/-- A step is safe when it answers a next state: the model gives it a meaning (R12). -/
def SafeStep (s : State) : Prop := ∃ t, step s = .next t

/-- Instructions executed one after another with nothing fetched between them, stopping at the first refusal. -/
def execAll : List Instr → State → Host.Outcome State Fault Refusal
  | [], s => .next s
  | i :: rest, s =>
    match exec i s with
    | .next t => execAll rest t
    | .fault r => .fault r
    | .refused r => .refused r

end Sys2Proof.Machine
end

