-- ==== Sys2Proof/Certificates/Slice0/Obligations.lean ====
section
/-!
DEFINITION. The statements for the provers. A statement about an instruction is about `exec` and starts, as the rules of
spec/ do, after the instruction's own bytes have been fetched (R110); `StepRunsTheFetchedInstruction` and
`InterruptRunsTheJammedByte` say how a step comes to it. What stays unchanged is said with the words of Safety.lean.
-/

open Sys2Proof Sys2Proof.Machine

/-! ## Encoding -/

/-- Decoding an encoded well-formed instruction gives it back, with every operand, and the bytes after it untouched. -/
def Obligations.DecodeOfEncodeIsTheInstruction : Prop :=
  ∀ i : Instr, i.wellFormed = true → ∀ rest : List Byte, decode (encode i ++ rest) = .ok (i, rest)

/-- Encoding a decoded instruction gives its bytes back but for the don't-care bits and bits 7 and 6 of a third byte, which
the encoder writes as 0; and every decoded instruction is well formed. That the don't-care bits are written as 0 is the
model's own choice (log entry 30): R94 says only that they are not decoded, and leaves it open which of the equivalent bytes
is written. That bits 7 and 6 of a third byte are dropped is the spec's decision D7 (log entry 13). -/
def Obligations.EncodeOfDecodeIsTheBytes : Prop :=
  ∀ op b2 b3 : Byte,
    (decodeOp op b2 b3).wellFormed = true ∧
      (encode (decodeOp op b2 b3)).head? =
        some (match decodeOp op b2 b3 with
          | .jmp _ => op &&& 0xC7
          | .cal _ => op &&& 0xC7
          | .ret => op &&& 0xC7
          | .hlt => op &&& 0xFE
          | _ => op) ∧
      (encode (decodeOp op b2 b3)).tail =
        match insnSize op with
        | .one => []
        | .two => [b2]
        | .three => [b2, b3 &&& 0x3F]

/-- R94: where the source prints X the bit is not decoded. All eight `01 XXX 100` are JMP, all eight `01 XXX 110` are CAL,
all eight `00 XXX 111` are RET, and both `00 000 00X` are HLT. -/
def Obligations.DontCareBitsAreNotDecoded : Prop :=
  (∀ (x : BitVec 3) (b2 b3 : Byte), decodeOp (byteOf 1 x 4) b2 b3 = .jmp (assembleAddr b2 b3)) ∧
    (∀ (x : BitVec 3) (b2 b3 : Byte), decodeOp (byteOf 1 x 6) b2 b3 = .cal (assembleAddr b2 b3)) ∧
    (∀ (x : BitVec 3) (b2 b3 : Byte), decodeOp (byteOf 0 x 7) b2 b3 = .ret) ∧
    ∀ b2 b3 : Byte, decodeOp 0x00 b2 b3 = .hlt ∧ decodeOp 0x01 b2 b3 = .hlt

/-- Every first byte is covered by exactly one of the 52 rows of the opcode table, and it is the row of the instruction the
decoder reads, whatever bytes follow. -/
def Obligations.EveryFirstByteIsInOneRow : Prop :=
  ∀ (op b2 b3 : Byte) (k : Nat),
    (∃ row, opcodeRows[k]? = some row ∧ row.covers op = true) ↔ k = (decodeOp op b2 b3).row

/-- The length law of R90 in numbers, never above `MAX_INSN_BYTES` of R5, and its count: 208 first bytes begin a one-byte
instruction, 16 a two-byte and 32 a three-byte one. -/
def Obligations.FirstByteFixesTheLength : Prop :=
  (∀ op : Byte,
    (insnSize op).bytes =
      if op.toNat / 64 = 0 ∧ (op.toNat % 8 = 4 ∨ op.toNat % 8 = 6) then 2
      else if op.toNat / 64 = 1 ∧ op.toNat % 2 = 0 then 3
      else 1) ∧
    (∀ op : Byte, (insnSize op).bytes ≤ Config.maxInsnBytes) ∧
    ((List.range 256).filter (fun n => insnSize (BitVec.ofNat 8 n) = .one)).length = 208 ∧
    ((List.range 256).filter (fun n => insnSize (BitVec.ofNat 8 n) = .two)).length = 16 ∧
    ((List.range 256).filter (fun n => insnSize (BitVec.ofNat 8 n) = .three)).length = 32

/-- The decoder takes exactly as many bytes as the first byte says, looks at no byte after them, and rejects a list only
when it is too short. -/
def Obligations.DecodeTakesTheWholeInstruction : Prop :=
  decode [] = .error .noBytes ∧
    ∀ (op : Byte) (more : List Byte),
      (more.length + 1 < (insnSize op).bytes ∧ decode (op :: more) = .error (.truncated op)) ∨
        ∃ (i : Instr) (used rest : List Byte),
          more = used ++ rest ∧ used.length + 1 = (insnSize op).bytes ∧
            ∀ other : List Byte, decode (op :: (used ++ other)) = .ok (i, other)

/-- The codes of the fields: registers (R22, the spec's decision D1), conditions (R36, D3) with the flip-flop each tests, and
ALU operations (R97 and R130, D2); the field 111 names no register (log entries 10 to 12). -/
def Obligations.FieldCodes : Prop :=
  [0, 1, 2, 3, 4, 5, 6, 7].map Reg.ofCode =
      [some .A, some .B, some .C, some .D, some .E, some .H, some .L, none] ∧
    [0, 1, 2, 3, 4, 5, 6, 7].map AluOp.ofCode = [.ad, .ac, .su, .sb, .nd, .xr, .or, .cp] ∧
    ∀ s : State, s.cond (Cond.ofCode 0) = s.fC ∧ s.cond (Cond.ofCode 1) = s.fZ ∧ s.cond (Cond.ofCode 2) = s.fS ∧
      s.cond (Cond.ofCode 3) = s.fP

/-- A few words of each family, written out from the spec's encoding tables with its codes of registers, operations and
conditions (the spec's decisions D1, D2 and D3, which it takes from general knowledge; log entries 10, 11 and 12) and,
for the word 7C 23 C1, with bits 7 and 6 of a third byte dropped (decision D7, log entry 13), decode to the instruction
they stand for: LAB, LHM, LML, LBI, LMI, INL, DCB, ADD, ACM, SUI, SBA, CPM, RAR, JMP, JFZ, JTP, CAL, CTS, RET, RTC, RST
3, INP 7, OUT 16, both HLT, and 0x38. -/
def Obligations.SampleWordsDecode : Prop :=
  decode [0xC1] = .ok (.lr1r2 .A .B, []) ∧ decode [0xEF] = .ok (.lrM .H, []) ∧ decode [0xFE] = .ok (.lMr .L, []) ∧
    decode [0x0E, 0x05] = .ok (.lrI .B 0x05, []) ∧ decode [0x3E, 0xFF] = .ok (.lMI 0xFF, []) ∧
    decode [0x30] = .ok (.inr .L, []) ∧ decode [0x09] = .ok (.dcr .B, []) ∧ decode [0x83] = .ok (.adr .D, []) ∧
    decode [0x8F] = .ok (.acm, []) ∧ decode [0x14, 0x01] = .ok (.sui 0x01, []) ∧ decode [0x98] = .ok (.sbr .A, []) ∧
    decode [0xBF] = .ok (.cpm, []) ∧ decode [0x1A] = .ok (.rar, []) ∧
    decode [0x7C, 0x23, 0xC1] = .ok (.jmp 0x0123, []) ∧ decode [0x48, 0x10, 0x00] = .ok (.jfc .Z 0x0010, []) ∧
    decode [0x78, 0x40, 0x00] = .ok (.jtc .P 0x0040, []) ∧ decode [0x46, 0x00, 0x02] = .ok (.cal 0x0200, []) ∧
    decode [0x72, 0x00, 0x10] = .ok (.ctc .S 0x1000, []) ∧ decode [0x3F] = .ok (.ret, []) ∧
    decode [0x23] = .ok (.rtc .C, []) ∧ decode [0x1D] = .ok (.rst 3, []) ∧ decode [0x4F] = .ok (.inp 7, []) ∧
    decode [0x61] = .ok (.out 2 0, []) ∧ decode [0x01] = .ok (.hlt, []) ∧ decode [0xFF] = .ok (.hltFF, []) ∧
    decode [0x38] = .ok (.unspec38, [])

/-! ## The step: fetch, interrupt, stopped state -/

/-- A step runs the decoded instruction: when the machine runs, no interrupt is presented, and memory holds at PC and after
it the bytes of an instruction, the step is `exec` of that instruction in the state after its fetch, and what the fetch
changed is listed whole: PC past the instruction (the spec's decision D9, log entry 15), all bytes fetched first (log entry
30), IR and the temporaries as R38, R39 and R110 move them (log entry 31), the events (log entry 27), and the offer of this
boundary used up (log entry 6). -/
def Obligations.StepRunsTheFetchedInstruction : Prop :=
  ∀ (s : State) (op b2 b3 : Byte) (i : Instr) (rest : List Byte),
    s.stopped = false → s.OffersNone →
    (∀ k : Nat, k < (insnSize op).bytes →
      s.HasMemory (s.pc + BitVec.ofNat 14 k) ∧
        s.mem.read (s.pc + BitVec.ofNat 14 k).toNat = [op, b2, b3].getD k 0) →
    decode [op, b2, b3] = .ok (i, rest) →
    i.wellFormed = true ∧
    ∃ s1 : State, step s = exec i s1 ∧
      s1.pc = s.pc + BitVec.ofNat 14 (insnSize op).bytes ∧ s1.sp = s.sp ∧
      (∀ k : Fin 8, k ≠ s.sp → s1.stk[k] = s.stk[k]) ∧
      SameRegs s s1 ∧ SameFlags s s1 ∧ s1.mem = s.mem ∧ s1.memMap = s.memMap ∧
      s1.ir = op ∧ s1.stopped = false ∧ s1.tstate = s.tstate ∧ s1.cycle = s.cycle ∧ s1.states = s.states ∧
      UsedOneOffer s s1 ∧ s1.inputs = s.inputs ∧ s1.draws = s.draws ∧ ShowsNothing s s1 ∧
      (match insnSize op with
        | .one => s1.tmpB = op ∧ s1.tmpA = s.tmpA ∧ s1.events = .read .pci s.pc :: s.events
        | .two => s1.tmpB = b2 ∧ s1.tmpA = s.tmpA ∧
            s1.events = .read .pcr (s.pc + 1) :: .read .pci s.pc :: s.events
        | .three => s1.tmpB = b2 ∧ s1.tmpA = b3 ∧
            s1.events = .read .pcr (s.pc + 2) :: .read .pcr (s.pc + 1) :: .read .pci s.pc :: s.events)

/-- `Fetch()` reads one byte at PC and moves PC on by one, modulo 2^14, and does nothing else (R27 and R28, which the spec
marks as its decision D9; log entry 15). -/
def Obligations.FetchReadsAtPcAndAdvances : Prop :=
  ∀ (s : State) (k : ReadKind),
    ReadsByte k s.pc (s.fetchByte k).1 s (s.fetchByte k).2 ∧
      (s.fetchByte k).2.pc.toNat = (s.pc.toNat + 1) % 16384 ∧ (s.fetchByte k).2.sp = s.sp ∧
      (∀ n : Fin 8, n ≠ s.sp → (s.fetchByte k).2.stk[n] = s.stk[n]) ∧
      SameRegs s (s.fetchByte k).2 ∧ SameFlags s (s.fetchByte k).2 ∧ SameMem s (s.fetchByte k).2 ∧
      SameControl s (s.fetchByte k).2 ∧ (s.fetchByte k).2.tmpA = s.tmpA ∧ (s.fetchByte k).2.tmpB = s.tmpB ∧
      (s.fetchByte k).2.states = s.states ∧ ShowsNothing s (s.fetchByte k).2

/-- R221: while STOPPED is 1, a step to which no interrupt is presented changes nothing, however many of them follow one
another, and only an interrupt ends the stopped state. The offers used up, listed or free, are the outside's and no state of
the spec (log entry 6). -/
def Obligations.StoppedMachineChangesNothing : Prop :=
  (∀ (n : Nat) (s : State), s.stopped = true → (∀ k : Nat, k < n → s.offerAt k = none) →
    Host.Core.run Sys2Proof.core n s = .next (s.afterOffers n)) ∧
    ∀ s t : State, s.stopped = true → step s = .next t → t.stopped = false → ∃ op, s.Offers op

/-- The entry of an interrupt (R232, R233 and R239, the spec's decision D12; log entry 20): stopped or running, a jammed byte
of a one-byte instruction takes the place of the fetch. PC, flags, registers and stack go into the instruction as they
were. -/
def Obligations.InterruptRunsTheJammedByte : Prop :=
  ∀ (s : State) (op : Byte), s.Offers op → insnSize op = .one →
    ∃ s1 : State, step s = exec (decodeOp op 0 0) s1 ∧ s1.stopped = false ∧ s1.ir = op ∧ s1.tmpB = op ∧
      s1.tmpA = s.tmpA ∧ SameRegs s s1 ∧ SameFlags s s1 ∧ SameStack s s1 ∧ s1.mem = s.mem ∧ s1.memMap = s.memMap ∧
      NoCycle s s1 ∧ ShowsNothing s s1 ∧ Took 0 s s1 ∧ UsedOneOffer s s1

/-- A jammed byte that begins a two- or three-byte instruction is refused, whatever the state (R238, the spec's decision
D12; log entry 20). -/
def Obligations.MultiByteJamIsRefused : Prop :=
  ∀ (s : State) (op : Byte), s.Offers op → 2 ≤ (insnSize op).bytes → step s = .refused (.multiByteJam op)

/-- A jammed RST (R233, D12; log entry 20) leaves in the old stack entry the address of the instruction that would have run
next, goes to 8 times its number, ends the stopped state, and changes no register, flag or byte of memory. -/
def Obligations.JammedRestartKeepsTheReturnAddress : Prop :=
  ∀ (s : State) (n : BitVec 3), s.Offers (byteOf 0 n 5) →
    ∃ t : State, step s = .next t ∧ t.stopped = false ∧ t.pc.toNat = 8 * n.toNat ∧ t.sp = s.sp + 1 ∧
      t.stk[s.sp] = s.pc ∧ (∀ k : Fin 8, k ≠ s.sp + 1 → t.stk[k] = s.stk[k]) ∧
      SameRegs s t ∧ SameFlags s t ∧ SameMem s t ∧ NoCycle s t ∧ UsedOneOffer s t ∧ t.states = s.states + 5

/-- From every state that power-up may leave, with the unspecified flags, SP and temporaries at any value (R261 and R262, the
spec's decision D13; log entries 8 and 29): a start-up interrupt that jams RST n starts at 8 times n with one stack level
used, holding 0; one that jams LAA starts at 0 with none used. -/
def Obligations.StartUpInterruptChoosesTheEntry : Prop :=
  ∀ s : State, s.PowerUp →
    (∀ n : BitVec 3, s.Offers (byteOf 0 n 5) →
      ∃ t : State, step s = .next t ∧ t.stopped = false ∧ t.pc.toNat = 8 * n.toNat ∧ t.sp = s.sp + 1 ∧
        t.stk[s.sp] = 0 ∧ (∀ r, t.reg r = 0)) ∧
      (s.Offers 0xC0 →
        ∃ t : State, step s = .next t ∧ t.stopped = false ∧ t.pc = 0 ∧ SameStack s t ∧ ∀ r, t.reg r = 0)

/-- Power-up: the registers, the stack and IR are clear and the processor is stopped (R46 and R261, the spec's decision D13;
log entry 29). The flags, SP and the temporaries at zero, the state counter in T3 and the platform's fields empty are the
model's choices (log entries 1 to 9, 27 and 28). -/
def Obligations.ResetValues : Prop :=
  State.reset.PowerUp ∧ State.reset.pc = 0 ∧ (∀ r, State.reset.reg r = 0) ∧ (∀ c, State.reset.cond c = false) ∧
    State.reset.sp = 0 ∧ State.reset.tmpA = 0 ∧ State.reset.tmpB = 0 ∧ State.reset.tstate = .T3 ∧
    State.reset.cycle = .one ∧ State.reset.mem = [] ∧ State.reset.memMap = [] ∧ State.reset.interrupts = [] ∧
    State.reset.offersDrawn = 0 ∧ State.reset.inputs = [] ∧ State.reset.draws = 0 ∧ State.reset.events = [] ∧
    State.reset.testBus = [] ∧ State.reset.states = 0

/-- The machine's invariant holds at reset. That the state counter is in T3 of cycle one there is read by the model from R41,
"the CPU internally remains in the T3 state", because the spec gives the counter no value at reset, and that memory lists
nothing is the model's choice (log entries 9 and 1). -/
def Obligations.ResetMeetsTheInvariant : Prop := State.reset.Inv

/-- Every step keeps the invariant, from every state that has it: memory stays in its canonical form, so that equal contents
stay equal data, and the state counter is that of an instruction boundary, T3 exactly when stopped. The form is the model's,
with the byte an unlisted address reads as chosen by it (log entry 1); the state counter is read by the model from R40, "the
next state is T1 of the PCI cycle of the next instruction", and R41, "remains in the T3 state" (log entry 9). -/
def Obligations.StepKeepsTheInvariant : Prop :=
  ∀ s t : State, s.Inv → step s = .next t → t.Inv

/-- No step traps or faults, and the model gives a step no meaning in two cases only: a jammed byte of a longer instruction
is presented, or the first byte, jammed or fetched, is one of the six no row covers (R93, R230, R238; the spec's decisions
D10, D11 and D12; log entries 19 to 21). -/
def Obligations.OnlyTwoKindsOfStepAreRefused : Prop :=
  ∀ s : State,
    (∃ t, step s = .next t) ∨
      (∃ op, s.Offers op ∧ insnSize op ≠ .one ∧ step s = .refused (.multiByteJam op)) ∨
      ∃ op, op ∈ Config.unspecifiedOpcodes ∧ step s = .refused (.unspecifiedOpcode op) ∧
        (s.Offers op ∨ (s.OffersNone ∧ s.stopped = false ∧ (s.fetchByte .pci).1 = op))

/-- What a step does to the fields the model itself keeps for the outside: the memory map stays (log entry 7), one offer is
used up (log entry 6), input bytes are taken from the front (log entry 5), draws and states only grow in number (log entries
4, 5 and 28), and the event history and the test output only get longer (log entry 27). All of these are the model's
choices. -/
def Obligations.StepUsesThePlatformInOrder : Prop :=
  ∀ s t : State, step s = .next t →
    t.memMap = s.memMap ∧ UsedOneOffer s t ∧ (∃ taken, s.inputs = taken ++ t.inputs) ∧
      s.draws ≤ t.draws ∧ s.states ≤ t.states ∧ (∃ new, t.events = new ++ s.events) ∧
      ∃ shown, t.testBus = shown ++ s.testBus

/-- R41: STOPPED is set by HLT and at reset, and cleared only by an interrupt, and while it is set the processor executes
nothing and no state changes. In clauses: reset is stopped; a step that ends stopped either began so with no interrupt
presented, or ran one of the three bytes of HLT, and HLT does stop, in T3 of the PCI cycle; a step that ends the stopped
state was presented an interrupt; and a stopped machine that is presented none changes nothing (but for the used up offer, log entry 6). -/
def Obligations.StoppedIsSetByHltAndClearedByInterrupt : Prop :=
  State.reset.stopped = true ∧
    (∀ s t : State, step s = .next t → t.stopped = true →
      (s.stopped = true ∧ s.OffersNone) ∨ t.ir = 0x00 ∨ t.ir = 0x01 ∨ t.ir = 0xFF) ∧
    (∀ (op b2 b3 : Byte) (s : State), op = 0x00 ∨ op = 0x01 ∨ op = 0xFF →
      ∃ t, exec (decodeOp op b2 b3) s = .next t ∧ t.stopped = true ∧ t.tstate = .T3 ∧ t.cycle = .one) ∧
    (∀ s t : State, s.stopped = true → step s = .next t → t.stopped = false → ∃ op, s.Offers op) ∧
    ∀ s : State, s.stopped = true → s.OffersNone → step s = .next (s.afterOffers 1)

/-- Bytes placed by `withFetchWord` run at the next step: where the decoder reads an instruction from a table word, the step
is `exec` of it, with every register, flag and return address as it was and PC past the instruction (log entry 8). -/
def Obligations.PlacedWordRunsNext : Prop :=
  ∀ (s : State) (nbits w : Nat) (i : Instr), s.mem.wf = true → decodeTableWord nbits w = some i →
    ∃ s1 : State, step (s.withFetchWord nbits w) = exec i s1 ∧ SameRegs s s1 ∧ SameFlags s s1 ∧ s1.sp = s.sp ∧
      (∀ k : Fin 8, k ≠ s.sp → s1.stk[k] = s.stk[k]) ∧
      s1.pc = s.pc + BitVec.ofNat 14 (insnSize (BitVec.ofNat 8 (w % 2 ^ nbits))).bytes ∧
      SameOffers s s1 ∧ ShowsNothing s s1 ∧ s1.stopped = false

/-! ## Rules over all instructions -/

/-- Only LMr and LMI change memory (the PCW cycle of R53, which no other instruction has), and they change no byte but the one
at `MAddr()` (R54 and R62; the width of that address is the spec's decision D7, log entry 13). -/
def Obligations.OnlyStoresChangeMemory : Prop :=
  ∀ (i : Instr) (s t : State), exec i s = .next t →
    match i with
    | .lMr _ => SameMemBut s.mAddr s t
    | .lMI _ => SameMemBut s.mAddr s t
    | _ => SameMem s t

/-- Which flip-flops an instruction leaves alone (R33, with the spec's decisions D5 and D6; log entry 16): INr and DCr leave
the carry, the rotates leave zero, sign and parity, ND, XR and OR leave the carry 0, and every instruction but these and
the other ALU operations leaves all four. -/
def Obligations.FlagsKeptByOtherInstructions : Prop :=
  ∀ (i : Instr) (s t : State), exec i s = .next t →
    match i with
    | .inr _ | .dcr _ => t.fC = s.fC
    | .rlc | .rrc | .ral | .rar => t.fZ = s.fZ ∧ t.fS = s.fS ∧ t.fP = s.fP
    | .adr _ | .adm | .adi _ | .acr _ | .acm | .aci _ | .sur _ | .sum | .sui _ | .sbr _ | .sbm | .sbi _
    | .cpr _ | .cpm | .cpi _ => True
    | .ndr _ | .ndm | .ndi _ | .xrr _ | .xrm | .xri _ | .orr _ | .orm | .ori _ => t.fC = false
    | _ => SameFlags s t

/-- Which index registers an instruction leaves alone (R24): all but its destination, which is A for the ALU operations but
compare, the rotates and INP, and all of them where the instruction has none. -/
def Obligations.RegistersKeptButTheDestination : Prop :=
  ∀ (i : Instr) (s t : State), exec i s = .next t →
    match i with
    | .lr1r2 d _ | .lrM d | .lrI d _ | .inr d | .dcr d => SameRegsBut d s t
    | .adr _ | .adm | .adi _ | .acr _ | .acm | .aci _ | .sur _ | .sum | .sui _ | .sbr _ | .sbm | .sbi _
    | .ndr _ | .ndm | .ndi _ | .xrr _ | .xrm | .xri _ | .orr _ | .orm | .ori _
    | .rlc | .rrc | .ral | .rar | .inp _ => SameRegsBut .A s t
    | _ => SameRegs s t

/-- The address stack (R29 to R31, the spec's decision D8; log entry 14): outside the jumps, calls, returns and RST it stays
whole; SP stays, or moves one place around the ring; and no instruction writes an entry but the one that is PC after it. -/
def Obligations.StackMovesOneEntryAtMost : Prop :=
  ∀ (i : Instr) (s t : State), exec i s = .next t →
    (match i with
      | .jmp _ | .jfc _ _ | .jtc _ _ => t.sp = s.sp
      | .cal _ | .rst _ => t.sp = s.sp + 1
      | .cfc _ _ | .ctc _ _ => t.sp = s.sp ∨ t.sp = s.sp + 1
      | .ret => t.sp = s.sp - 1
      | .rfc _ | .rtc _ => t.sp = s.sp ∨ t.sp = s.sp - 1
      | _ => SameStack s t) ∧
      ∀ k : Fin 8, k ≠ t.sp → t.stk[k] = s.stk[k]

/-- Which instructions the flags can reach (R34): two states that differ only in the flags give, for every instruction but
AC, SB, RAL, RAR and the conditional ones, the same registers, stack, memory and stop or no stop. -/
def Obligations.FlagsReachOnlyTheirReaders : Prop :=
  ∀ (i : Instr) (s t : State) (c z g p : Bool), exec i s = .next t →
    match i with
    | .acr _ | .acm | .aci _ | .sbr _ | .sbm | .sbi _ | .ral | .rar
    | .jfc _ _ | .jtc _ _ | .cfc _ _ | .ctc _ _ | .rfc _ | .rtc _ => True
    | _ => ∃ u, exec i { s with fC := c, fZ := z, fS := g, fP := p } = .next u ∧
        SameRegs t u ∧ SameStack t u ∧ u.mem = t.mem ∧ u.stopped = t.stopped

/-- The test output of note 3 and of note 16 (R45, R60, R244): what the data bus shows in T4 and T5 of each instruction, by the
internal sequences of its rule. A register transfer shows the byte moved (log entry 31); an idle state and an operation show a
byte nothing constrains (U13); INP shows the flags in D3..D0 and RST the bits D5..D3 of b, the other bits free (U12, log entry
33). States that are skipped, and cycles that have no T4 and T5, show nothing. -/
def Obligations.TestBusShowsWhatIsMoved : Prop :=
  ∀ (i : Instr) (s t : State), exec i s = .next t →
    match i with
    | .lr1r2 _ r => ShowsT4T5 .one (s.reg r) (s.reg r) s t
    | .lrM _ | .lrI _ _ => ∃ free, ShowsT4T5 .two free t.tmpB s t
    | .lMr r => t.testBus = ⟨.one, .T4, s.reg r⟩ :: s.testBus
    | .adr r | .acr r | .sur r | .sbr r | .ndr r | .xrr r | .orr r | .cpr r => ∃ free, ShowsT4T5 .one (s.reg r) free s t
    | .adm | .acm | .sum | .sbm | .ndm | .xrm | .orm | .cpm
    | .adi _ | .aci _ | .sui _ | .sbi _ | .ndi _ | .xri _ | .ori _ | .cpi _ =>
      ∃ free4 free5, ShowsT4T5 .two free4 free5 s t
    | .inr _ | .dcr _ | .rlc | .rrc | .ral | .rar | .ret => ∃ free4 free5, ShowsT4T5 .one free4 free5 s t
    | .jmp _ | .cal _ => ShowsT4T5 .three s.tmpA s.tmpB s t
    | .jfc c _ | .cfc c _ => if s.cond c = false then ShowsT4T5 .three s.tmpA s.tmpB s t else ShowsNothing s t
    | .jtc c _ | .ctc c _ => if s.cond c = true then ShowsT4T5 .three s.tmpA s.tmpB s t else ShowsNothing s t
    | .rfc c =>
      if s.cond c = false then ∃ free4 free5, ShowsT4T5 .one free4 free5 s t else ShowsNothing s t
    | .rtc c =>
      if s.cond c = true then ∃ free4 free5, ShowsT4T5 .one free4 free5 s t else ShowsNothing s t
    | .rst _ =>
      ∃ part, ShowsT4T5 .one 0 part s t ∧ ∀ k : Nat, 3 ≤ k ∧ k < 6 → part.getLsbD k = s.tmpB.getLsbD k
    | .inp _ =>
      ∃ part, ShowsT4T5 .two part t.tmpB s t ∧ part.getLsbD 0 = s.fS ∧ part.getLsbD 1 = s.fZ ∧
        part.getLsbD 2 = s.fP ∧ part.getLsbD 3 = s.fC
    | .lMI _ | .out _ _ | .hlt | .hltFF | .unspecRotate _ | .unspec38 | .unspec39 => ShowsNothing s t

/-! ## Index register instructions -/

/-- R111, Lr1r2: `x[DDD] <- x[SSS]`, through temporary b, in 5 states; encoded `11 DDD SSS`, one byte; no flag, no
memory access and no other register. -/
def Obligations.LoadRegisterFromRegister : Prop :=
  ∀ (d r : Reg) (s : State), encode (.lr1r2 d r) = [byteOf 3 d.code r.code] ∧
    insnSize (byteOf 3 d.code r.code) = .one ∧
    ∃ t, exec (.lr1r2 d r) s = .next t ∧ t.reg d = s.reg r ∧ SameRegsBut d s t ∧
      SameFlags s t ∧ SameStack s t ∧ SameMem s t ∧ SameControl s t ∧ NoCycle s t ∧
      t.tmpA = s.tmpA ∧ t.tmpB = s.reg r ∧ t.states = s.states + 5

/-- R112, LrM: the byte read at `MAddr()`, formed before the register is written, goes through temporary b to the register,
in 8 states; encoded `11 DDD 111`, one byte; where there is no memory the byte is a draw. -/
def Obligations.LoadRegisterFromMemory : Prop :=
  ∀ (d : Reg) (s : State), encode (.lrM d) = [byteOf 3 d.code 7] ∧
    insnSize (byteOf 3 d.code 7) = .one ∧
    ∃ v t, exec (.lrM d) s = .next t ∧ ReadsByte .pcr s.mAddr v s t ∧ t.reg d = v ∧ SameRegsBut d s t ∧
      SameFlags s t ∧ SameStack s t ∧ SameMem s t ∧ SameControl s t ∧
      t.tmpA = s.tmpA ∧ t.tmpB = v ∧ t.states = s.states + 8

/-- LMr (R113): `MemWrite(MAddr(), 1, x[SSS])`, through temporary b, in 7 states; encoded `11 111 SSS`, one byte; what is
written in RAM is there for the next fetch; no register changes and no other byte of memory. That a write to ROM or to
nothing is lost is the spec's decision D15 of R53 (log entry 24), and that one to a device changes no later read is the
model's choice (log entry 7). -/
def Obligations.StoreRegisterToMemory : Prop :=
  ∀ (r : Reg) (s : State), s.mem.wf = true → encode (.lMr r) = [byteOf 3 7 r.code] ∧
    insnSize (byteOf 3 7 r.code) = .one ∧
    ∃ t, exec (.lMr r) s = .next t ∧ WritesByte s.mAddr (s.reg r) s t ∧
      (s.kindAt s.mAddr = .ram → (t.memRead .pci s.mAddr).1 = s.reg r) ∧ SameRegs s t ∧
      SameFlags s t ∧ SameStack s t ∧ SameControl s t ∧ t.tmpA = s.tmpA ∧ t.tmpB = s.reg r ∧
      t.states = s.states + 7

/-- LrI (R114, after its immediate is fetched): the immediate goes to the register whole, in 8 states. -/
def Obligations.LoadRegisterImmediate : Prop :=
  ∀ (d : Reg) (imm : Byte) (s : State),
    ∃ t, exec (.lrI d imm) s = .next t ∧ t.reg d = imm ∧ SameRegsBut d s t ∧
      SameFlags s t ∧ SameStack s t ∧ SameMem s t ∧ SameControl s t ∧ NoCycle s t ∧
      t.tmpA = s.tmpA ∧ t.tmpB = imm ∧ Took 8 s t

/-- LMI (R115, after its immediate is fetched): the immediate is written at `MAddr()` where there is RAM, in 9 states; no
register changes and no other byte of memory. That a write to ROM or to nothing is lost is the spec's decision D15 of R53 (log
entry 24), and that one to a device changes no later read is the model's choice (log entry 7). -/
def Obligations.StoreImmediateToMemory : Prop :=
  ∀ (imm : Byte) (s : State), s.mem.wf = true →
    ∃ t, exec (.lMI imm) s = .next t ∧ WritesByte s.mAddr imm s t ∧ SameRegs s t ∧
      SameFlags s t ∧ SameStack s t ∧ SameControl s t ∧ t.tmpA = s.tmpA ∧ t.tmpB = imm ∧ Took 9 s t

/-- INr (R116; that it adds one and leaves the carry is the spec's decisions D27 and D5, log entries 18 and 16): the register
plus one modulo 256, zero, sign and parity of it, the carry as it was, in 5 states. -/
def Obligations.IncrementRegister : Prop :=
  ∀ (d : Reg) (s : State),
    ∃ t, exec (.inr d) s = .next t ∧ (t.reg d).toNat = ((s.reg d).toNat + 1) % 256 ∧ ZspOf (t.reg d) t ∧
      t.fC = s.fC ∧ SameRegsBut d s t ∧ SameStack s t ∧ SameMem s t ∧ SameControl s t ∧ NoCycle s t ∧
      t.tmpA = s.tmpA ∧ t.tmpB = s.tmpB ∧ Took 5 s t

/-- DCr (R117; decisions D27 and D5, log entries 18 and 16): the register less one modulo 256, zero, sign and parity of it,
the carry as it was, in 5 states. -/
def Obligations.DecrementRegister : Prop :=
  ∀ (d : Reg) (s : State),
    ∃ t, exec (.dcr d) s = .next t ∧ (t.reg d).toNat = ((s.reg d).toNat + 255) % 256 ∧ ZspOf (t.reg d) t ∧
      t.fC = s.fC ∧ SameRegsBut d s t ∧ SameStack s t ∧ SameMem s t ∧ SameControl s t ∧ NoCycle s t ∧
      t.tmpA = s.tmpA ∧ t.tmpB = s.tmpB ∧ Took 5 s t

/-! ## Accumulator group -/

/-- The register forms ADr, ACr, SUr, SBr, NDr, XRr, ORr and CPr (R130 and R131, the spec's decisions D2, D4 and D6; log
entries 11 and 16): result and flags as R130 gives them in numbers and bits, through temporary b, in 5 states. -/
def Obligations.AluOnARegister : Prop :=
  ∀ (r : Reg) (s : State), ∀ ip ∈ [(Instr.adr r, AluOp.ad), (.acr r, .ac), (.sur r, .su), (.sbr r, .sb),
      (.ndr r, .nd), (.xrr r, .xr), (.orr r, .or), (.cpr r, .cp)],
    ∃ t, exec ip.1 s = .next t ∧ AluEffect ip.2 (s.reg r) s t ∧ SameStack s t ∧ SameMem s t ∧ SameControl s t ∧
      NoCycle s t ∧ t.tmpA = s.tmpA ∧ t.tmpB = s.reg r ∧ Took 5 s t

/-- The memory forms ADM, ACM, SUM, SBM, NDM, XRM, ORM and CPM (R130 and R131, decisions D2, D4 and D6; log entries 11 and
16): the byte M is read once and nothing is written to memory, in 8 states. -/
def Obligations.AluOnMemory : Prop :=
  ∀ s : State, ∀ ip ∈ [(Instr.adm, AluOp.ad), (.acm, .ac), (.sum, .su), (.sbm, .sb),
      (.ndm, .nd), (.xrm, .xr), (.orm, .or), (.cpm, .cp)],
    ∃ v t, exec ip.1 s = .next t ∧ ReadsByte .pcr s.mAddr v s t ∧ AluEffect ip.2 v s t ∧ SameStack s t ∧ SameMem s t ∧
      SameControl s t ∧ t.tmpA = s.tmpA ∧ t.tmpB = v ∧ Took 8 s t

/-- The immediate forms ADI, ACI, SUI, SBI, NDI, XRI, ORI and CPI (R130 and R131, decisions D2, D4 and D6; log entries 11
and 16), after the immediate is fetched, in 8 states. -/
def Obligations.AluOnAnImmediate : Prop :=
  ∀ (v : Byte) (s : State), ∀ ip ∈ [(Instr.adi v, AluOp.ad), (.aci v, .ac), (.sui v, .su), (.sbi v, .sb),
      (.ndi v, .nd), (.xri v, .xr), (.ori v, .or), (.cpi v, .cp)],
    ∃ t, exec ip.1 s = .next t ∧ AluEffect ip.2 v s t ∧ SameStack s t ∧ SameMem s t ∧ SameControl s t ∧
      NoCycle s t ∧ t.tmpA = s.tmpA ∧ t.tmpB = v ∧ Took 8 s t

/-- RLC, RRC, RAL and RAR (R156 to R159, the spec's decision D23; log entry 17), bit by bit: where each bit of A comes from,
which bit goes to the carry; no other flag and no other register, in 5 states. -/
def Obligations.RotateBits : Prop :=
  ∀ s : State, ∀ ib ∈ [
      (Instr.rlc, (fun k => s.rA.getLsbD ((k + 7) % 8)), s.rA.getLsbD 7),
      (.rrc, (fun k => s.rA.getLsbD ((k + 1) % 8)), s.rA.getLsbD 0),
      (.ral, (fun k => if k = 0 then s.fC else s.rA.getLsbD (k - 1)), s.rA.getLsbD 7),
      (.rar, (fun k => if k = 7 then s.fC else s.rA.getLsbD (k + 1)), s.rA.getLsbD 0)],
    ∃ t, exec ib.1 s = .next t ∧ (∀ k : Nat, k < 8 → t.rA.getLsbD k = ib.2.1 k) ∧ t.fC = ib.2.2 ∧
      t.fZ = s.fZ ∧ t.fS = s.fS ∧ t.fP = s.fP ∧ SameRegsBut .A s t ∧ SameStack s t ∧ SameMem s t ∧
      SameControl s t ∧ NoCycle s t ∧ t.tmpA = s.tmpA ∧ t.tmpB = s.tmpB ∧ Took 5 s t

/-- RRC undoes RLC and RAR undoes RAL; eight RLC restore A, and nine RAL restore A and the carry (R156 to R159; the directions
of the rotates are the spec's decision D23, log entry 17). -/
def Obligations.RotatesUndoOneAnother : Prop :=
  ∀ s : State,
    (∃ t, execAll [.rlc, .rrc] s = .next t ∧ t.rA = s.rA) ∧
      (∃ t, execAll [.ral, .rar] s = .next t ∧ t.rA = s.rA ∧ t.fC = s.fC) ∧
      (∃ t, execAll (List.replicate 8 .rlc) s = .next t ∧ t.rA = s.rA) ∧
      ∃ t, execAll (List.replicate 9 .ral) s = .next t ∧ t.rA = s.rA ∧ t.fC = s.fC

/-- After a compare A is as it was, the zero flag says whether A equals the operand and the carry whether A is below it,
unsigned (R153 to R155, the spec's decision D2; log entry 11), whatever form the operand has. -/
def Obligations.CompareOrdersTheAccumulator : Prop :=
  (∀ (r : Reg) (s : State), ∃ t, exec (.cpr r) s = .next t ∧ t.rA = s.rA ∧
    (t.fZ = true ↔ s.rA = s.reg r) ∧ (t.fC = true ↔ s.rA.toNat < (s.reg r).toNat)) ∧
    (∀ s : State, s.HasMemory s.mAddr → ∃ t, exec .cpm s = .next t ∧ t.rA = s.rA ∧
      (t.fZ = true ↔ s.rA = s.mem.read s.mAddr.toNat) ∧
      (t.fC = true ↔ s.rA.toNat < (s.mem.read s.mAddr.toNat).toNat)) ∧
    ∀ (v : Byte) (s : State), ∃ t, exec (.cpi v) s = .next t ∧ t.rA = s.rA ∧
      (t.fZ = true ↔ s.rA = v) ∧ (t.fC = true ↔ s.rA.toNat < v.toNat)

/-- The identities of R162 (derived there from R130): SU is the sum with the complement plus one, with the complement of its
carry, SB the same with one less the carry, CP gives what SU gives, AC and SB without carry are AD and SU, and the logical
operations clear the carry. -/
def Obligations.AluIdentities : Prop :=
  ∀ (x y : Byte) (c : Bool),
    (alu .su x y c).value.toNat = (x.toNat + (~~~y).toNat + 1) % 256 ∧
      ((alu .su x y c).carry = true ↔ x.toNat + (~~~y).toNat + 1 < 256) ∧
      (alu .sb x y c).value.toNat = (x.toNat + (~~~y).toNat + (1 - c.toNat)) % 256 ∧
      ((alu .sb x y c).carry = true ↔ x.toNat + (~~~y).toNat + (1 - c.toNat) < 256) ∧
      alu .cp x y c = alu .su x y c ∧ alu .ac x y false = alu .ad x y c ∧ alu .sb x y false = alu .su x y c ∧
      (alu .nd x y c).carry = false ∧ (alu .xr x y c).carry = false ∧ (alu .or x y c).carry = false

/-- SU of a register undoes AD of it, for the registers other than A, for which the law is false (the operations are the
spec's decision D2, log entry 11), and DCr undoes INr (decision D27, log entry 18), the carry untouched by both (decision D5,
log entry 16). -/
def Obligations.SubtractUndoesAdd : Prop :=
  (∀ (r : Reg) (s : State), r ≠ .A → ∃ t, execAll [.adr r, .sur r] s = .next t ∧ SameRegs s t) ∧
    ∀ (r : Reg) (s : State), ∃ t, execAll [.inr r, .dcr r] s = .next t ∧ SameRegs s t ∧ t.fC = s.fC

/-! ## Program counter and stack control -/

/-- JMP (R181, after its address is fetched): the target goes to PC, in 11 states; SP, the other stack entries, registers,
flags and memory stay. -/
def Obligations.JumpGoesToTheTarget : Prop :=
  ∀ (target : Addr) (s : State),
    ∃ t, exec (.jmp target) s = .next t ∧ t.pc = target ∧ t.sp = s.sp ∧
      (∀ k : Fin 8, k ≠ s.sp → t.stk[k] = s.stk[k]) ∧ SameRegs s t ∧ SameFlags s t ∧ SameMem s t ∧ SameControl s t ∧
      NoCycle s t ∧ t.tmpA = s.tmpA ∧ t.tmpB = s.tmpB ∧ Took 11 s t

/-- JFc and JTc (R182, R183, R268; the conditions of R36 are the spec's decision D3, log entry 12): JFc jumps when its
flip-flop is 0 and JTc when it is 1, in 11 states, so exactly one of the two jumps; the other goes on in 9 states with the
stack untouched. -/
def Obligations.ConditionalJumps : Prop :=
  ∀ (c : Cond) (target : Addr) (s : State), ∀ iw ∈ [(Instr.jfc c target, false), (.jtc c target, true)],
    ∃ t, exec iw.1 s = .next t ∧
      (if s.cond c = iw.2 then t.pc = target ∧ Took 11 s t else t.pc = s.pc ∧ Took 9 s t) ∧ t.sp = s.sp ∧
      (∀ k : Fin 8, k ≠ s.sp → t.stk[k] = s.stk[k]) ∧ SameRegs s t ∧ SameFlags s t ∧ SameMem s t ∧ SameControl s t ∧
      NoCycle s t ∧ t.tmpA = s.tmpA ∧ t.tmpB = s.tmpB

/-- CAL (R184; the ring is the spec's decision D8, log entry 14): SP moves on around the ring, the old entry keeps the return
address, the target is the new PC, and nothing is written to memory, in 11 states. -/
def Obligations.CallKeepsTheReturnAddress : Prop :=
  ∀ (target : Addr) (s : State),
    ∃ t, exec (.cal target) s = .next t ∧ t.sp.val = (s.sp.val + 1) % 8 ∧ t.pc = target ∧ t.stk[s.sp] = s.pc ∧
      (∀ k : Fin 8, k ≠ t.sp → t.stk[k] = s.stk[k]) ∧ SameRegs s t ∧ SameFlags s t ∧ SameMem s t ∧ SameControl s t ∧
      NoCycle s t ∧ t.tmpA = s.tmpA ∧ t.tmpB = s.tmpB ∧ Took 11 s t

/-- CFc and CTc (R185, R186, R268; decisions D3 and D8, log entries 12 and 14): a call as CAL, in 11 states, when the
flip-flop is 0 for CFc and 1 for CTc; otherwise the stack, PC with it, is untouched, in 9 states. -/
def Obligations.ConditionalCalls : Prop :=
  ∀ (c : Cond) (target : Addr) (s : State), ∀ iw ∈ [(Instr.cfc c target, false), (.ctc c target, true)],
    ∃ t, exec iw.1 s = .next t ∧
      (if s.cond c = iw.2 then
        t.sp.val = (s.sp.val + 1) % 8 ∧ t.pc = target ∧ t.stk[s.sp] = s.pc ∧
          (∀ k : Fin 8, k ≠ t.sp → t.stk[k] = s.stk[k]) ∧ Took 11 s t
      else SameStack s t ∧ Took 9 s t) ∧
      SameRegs s t ∧ SameFlags s t ∧ SameMem s t ∧ SameControl s t ∧ NoCycle s t ∧ t.tmpA = s.tmpA ∧ t.tmpB = s.tmpB

/-- RET (R187; decision D8, log entry 14): SP moves back around the ring, PC is what the entry there holds, and no entry
changes, in 5 states. -/
def Obligations.ReturnTakesTheEntryBelow : Prop :=
  ∀ s : State,
    ∃ t, exec .ret s = .next t ∧ t.sp.val = (s.sp.val + 7) % 8 ∧ t.stk = s.stk ∧ t.pc = s.stk[s.sp - 1] ∧
      SameRegs s t ∧ SameFlags s t ∧ SameMem s t ∧ SameControl s t ∧ NoCycle s t ∧
      t.tmpA = s.tmpA ∧ t.tmpB = s.tmpB ∧ Took 5 s t

/-- RFc and RTc (R188, R189, R268; decisions D3 and D8, log entries 12 and 14): a return as RET, in 5 states, when the
flip-flop is 0 for RFc and 1 for RTc; otherwise the stack is untouched, in 3 states. -/
def Obligations.ConditionalReturns : Prop :=
  ∀ (c : Cond) (s : State), ∀ iw ∈ [(Instr.rfc c, false), (.rtc c, true)],
    ∃ t, exec iw.1 s = .next t ∧
      (if s.cond c = iw.2 then
        t.sp.val = (s.sp.val + 7) % 8 ∧ t.pc = s.stk[s.sp - 1] ∧ Took 5 s t
      else t.sp = s.sp ∧ t.pc = s.pc ∧ Took 3 s t) ∧ t.stk = s.stk ∧
      SameRegs s t ∧ SameFlags s t ∧ SameMem s t ∧ SameControl s t ∧ NoCycle s t ∧ t.tmpA = s.tmpA ∧ t.tmpB = s.tmpB

/-- RST (R190; the ring is decision D8, log entry 14): a call to 8 times AAA, with zero in temporary a, in 5 states. -/
def Obligations.RestartCallsItsAddress : Prop :=
  ∀ (aaa : BitVec 3) (s : State),
    ∃ t, exec (.rst aaa) s = .next t ∧ t.sp.val = (s.sp.val + 1) % 8 ∧ t.pc.toNat = 8 * aaa.toNat ∧ t.stk[s.sp] = s.pc ∧
      (∀ k : Fin 8, k ≠ t.sp → t.stk[k] = s.stk[k]) ∧ SameRegs s t ∧ SameFlags s t ∧ SameMem s t ∧ SameControl s t ∧
      NoCycle s t ∧ t.tmpA = 0 ∧ t.tmpB = s.tmpB ∧ Took 5 s t

/-- R88: the restart address is assembled from the first byte itself, `zext_14(byte1 & 0x38)`: for every byte that decodes to
an RST, whatever the state, PC is that address after it. -/
def Obligations.RestartAddressIsBitsThreeToFive : Prop :=
  ∀ (op b2 b3 : Byte) (aaa : BitVec 3), decodeOp op b2 b3 = .rst aaa →
    ∀ s : State, ∃ t, exec (decodeOp op b2 b3) s = .next t ∧ t.pc = (op &&& 0x38).zeroExtend 14

/-- Up to seven nested calls return in order (R30, R31 and R191, the spec's decision D8; log entry 14): after as many returns
as calls, SP and PC are what they were, and so are registers, flags and memory. -/
def Obligations.NestedCallsReturnInOrder : Prop :=
  ∀ (s : State) (targets : List Addr), targets.length ≤ 7 →
    ∃ t, execAll (targets.map Instr.cal ++ List.replicate targets.length Instr.ret) s = .next t ∧
      t.sp = s.sp ∧ t.pc = s.pc ∧ SameRegs s t ∧ SameFlags s t ∧ SameMem s t

/-- The eighth nested call overwrites the oldest return address (R30, R184 and R265, the spec's decision D8; log entry 14):
after eight calls and eight returns SP is what it was, and PC is the target of the eighth call. -/
def Obligations.EighthCallLosesTheOldestReturn : Prop :=
  ∀ (s : State) (targets : List Addr) (last : Addr), targets.length = 7 →
    ∃ t, execAll ((targets ++ [last]).map Instr.cal ++ List.replicate 8 Instr.ret) s = .next t ∧
      t.sp = s.sp ∧ t.pc = last

/-! ## Input, output, halt, and the unspecified bytes -/

/-- INP (R210 and R60; the port number and the free byte are the spec's decisions D18 and D24, log entries 25 and 5): the
outside sees the port, one of the `N_IN_PORTS` of R5, A and the flags, S at D0, Z at D1, P at D2 and C at D3, as they are
before; A takes the byte it supplies, the next one listed or else a free one; no flag changes; 8 states. -/
def Obligations.InputTakesAByteIntoA : Prop :=
  ∀ (mmm : BitVec 3) (s : State),
    ∃ (v : Byte) (port : Port) (shown : BitVec 4) (t : State), exec (.inp mmm) s = .next t ∧ t.rA = v ∧
      t.events = .input port s.rA shown v :: s.events ∧ port.toNat = mmm.toNat ∧
      port.toNat < Config.nInPorts ∧
      shown.getLsbD 0 = s.fS ∧ shown.getLsbD 1 = s.fZ ∧ shown.getLsbD 2 = s.fP ∧ shown.getLsbD 3 = s.fC ∧
      ((s.inputs = v :: t.inputs ∧ t.draws = s.draws) ∨
        (s.inputs = [] ∧ t.inputs = [] ∧ v = Config.inputByte s.draws ∧ t.draws = s.draws + 1)) ∧
      SameRegsBut .A s t ∧ SameFlags s t ∧ SameStack s t ∧ SameMem s t ∧ SameControl s t ∧
      t.tmpA = s.tmpA ∧ t.tmpB = v ∧ Took 8 s t

/-- OUT (R211 and R61; the port number is the spec's decision D18, log entry 25): the outside sees the port, RR above MMM, one
of the `N_OUT_PORTS` of R5 where the instruction is well formed, and A; no register, flag or byte of memory changes; 6 states. -/
def Obligations.OutputSendsA : Prop :=
  ∀ (rr : BitVec 2) (mmm : BitVec 3) (s : State),
    ∃ (port : Port) (t : State), exec (.out rr mmm) s = .next t ∧ t.events = .output port s.rA :: s.events ∧
      port.toNat = 8 * rr.toNat + mmm.toNat ∧
      (rr ≠ 0 → Config.nInPorts ≤ port.toNat ∧ port.toNat < Config.nInPorts + Config.nOutPorts) ∧
      SameRegs s t ∧ SameFlags s t ∧ SameStack s t ∧ SameMem s t ∧ SameControl s t ∧ t.draws = s.draws ∧ t.inputs = s.inputs ∧ t.tmpA = s.tmpA ∧ t.tmpB = s.tmpB ∧ Took 6 s t

/-- HLT, in both encodings (R220; that PC is past the HLT is the spec's decision D21 and comes from the fetch, log entry 26):
STOPPED is set, the state counter stays in T3, and no register, flag, stack entry or byte of memory changes; 4 states. -/
def Obligations.HaltStops : Prop :=
  ∀ s : State, ∀ i ∈ [Instr.hlt, Instr.hltFF],
    ∃ t, exec i s = .next t ∧ t.stopped = true ∧ t.tstate = .T3 ∧ t.cycle = .one ∧ t.states = s.states + 4 ∧
      SameRegs s t ∧ SameFlags s t ∧ SameStack s t ∧ SameMem s t ∧ NoCycle s t ∧ t.ir = s.ir ∧
      t.tmpA = s.tmpA ∧ t.tmpB = s.tmpB ∧ t.memMap = s.memMap ∧ SameOffers s t

/-- The six first bytes no row of the source covers (R93, the spec's decision D10; log entry 19): each decodes to an
instruction of its own that is refused by name, with the byte, in every state. -/
def Obligations.UnspecifiedBytesAreRefused : Prop :=
  ∀ (b2 b3 : Byte) (s : State), ∀ op ∈ [(0x22 : Byte), 0x2A, 0x32, 0x3A, 0x38, 0x39],
    exec (decodeOp op b2 b3) s = .refused (.unspecifiedOpcode op)

/-! ## Memory -/

/-- RAM keeps what was written and ROM what it holds (R66 and R53, the spec's decisions D14 and D15; log entries 7, 23 and
24): a read of the address written gives the byte where there is RAM and what was there before where there is ROM, and a
read of every other address with memory gives what it gave. -/
def Obligations.MemoryReadsWhatWasWritten : Prop :=
  ∀ (s : State) (a b : Addr) (v : Byte) (k : ReadKind), s.mem.wf = true →
    (s.kindAt a = .ram → ((s.memWrite a v).memRead k a).1 = v) ∧
      (s.kindAt a = .rom → ((s.memWrite a v).memRead k a).1 = (s.memRead k a).1) ∧
      (s.HasMemory b → b ≠ a → ((s.memWrite a v).memRead k b).1 = (s.memRead k b).1)

/-- The address of M (R54; its width is the spec's decision D7, log entry 13): the lower six bits of H times 256 plus L, so
bits 7 and 6 of H take no part. -/
def Obligations.AddressOfM : Prop :=
  ∀ s : State, s.mAddr.toNat = (s.rH.toNat % 64) * 256 + s.rL.toNat

/-- A byte stored into the instruction stream is seen by the very next fetch (R69, derived there): LMr where M is the address
in PC, in RAM, and then the next fetch of an instruction reads the byte stored. -/
def Obligations.StoredByteIsFetchedNext : Prop :=
  ∀ (r : Reg) (s : State), s.mem.wf = true → s.kindAt s.mAddr = .ram → s.mAddr = s.pc →
    ∃ t, exec (.lMr r) s = .next t ∧ t.fetchOpcode.1 = s.reg r ∧ t.fetchOpcode.2.ir = s.reg r
end

