-- ==== Sys2Proof/Laws/Config.lean ====
section
/-!
SUPPORT. The parameters of R5 are those the model uses: the widths of its words, the codes of its fields, the ports its
instructions can name, the length of its instructions. A claim that names a parameter cites these.
-/

namespace Sys2Proof

theorem Config.byte_width : Byte = BitVec Config.dataBits := rfl

theorem Config.addr_width : Addr = BitVec Config.addrBits := rfl

/-- The register field has one code for each register and one for M (R21, R22). -/
theorem Config.codes_count : Config.nRegs + 1 = 2 ^ Config.regFieldBits := rfl

/-- The table of registers and the codes of the encoder agree. -/
@[simp] theorem Reg.ofCode_code (r : Reg) : Reg.ofCode r.code = some r := by
  cases r <;> rfl

/-- The code of M names no register (R21). -/
@[simp] theorem Reg.ofCode_codeM : Reg.ofCode Config.codeM = none := rfl

/-- Every other code names the register that has it. -/
theorem Reg.code_of_ofCode (c : BitVec 3) (r : Reg) (h : Reg.ofCode c = some r) : r.code = c := by
  have all : ∀ c : BitVec 3, ∀ r, Reg.ofCode c = some r → r.code = c := by
    intro c r
    cases r <;> revert c <;> decide
  exact all c r h

/-- The table of conditions and the codes of the encoder agree. -/
@[simp] theorem Cond.ofCode_code (c : Cond) : Cond.ofCode c.code = c := by
  cases c <;> rfl

@[simp] theorem Cond.code_ofCode (c : BitVec 2) : (Cond.ofCode c).code = c := by
  revert c
  decide

/-- The table of operations and the codes of the encoder agree. -/
@[simp] theorem AluOp.ofCode_code (p : AluOp) : AluOp.ofCode p.code = p := by
  cases p <;> rfl

@[simp] theorem AluOp.code_ofCode (p : BitVec 3) : (AluOp.ofCode p).code = p := by
  revert p
  decide

/-- No instruction is longer than `MAX_INSN_BYTES`. -/
theorem InsnSize.bytes_le (n : InsnSize) : n.bytes ≤ Config.maxInsnBytes := by
  cases n <;> decide

namespace Machine

/-- The port of INP or OUT in numbers (R89). -/
theorem portOf_toNat (rr : BitVec 2) (mmm : BitVec 3) : (portOf rr mmm).toNat = 8 * rr.toNat + mmm.toNat := by
  revert rr mmm
  decide

/-- RR = 00 names an input port, every other RR an output port, and there are no ports beside these (R51). -/
theorem portOf_input_iff (rr : BitVec 2) (mmm : BitVec 3) :
    ((portOf rr mmm).toNat < Config.nInPorts ↔ rr = 0) ∧
      (portOf rr mmm).toNat < Config.nInPorts + Config.nOutPorts := by
  revert rr mmm
  decide

end Machine

end Sys2Proof
end

