-- ==== Sys2Proof/Laws/Memory.lean ====
section
/-!
SUPPORT. The laws of memory: a byte reads as written, other bytes read as before, and every write keeps the canonical
form, in which equal contents are equal data.
-/

namespace Sys2Proof.Machine

/-- A write leaves every other address alone, in any list. -/
theorem Memory.read_write_other (m : Memory) (a b : Nat) (v : Byte) (h : b ≠ a) :
    (m.write a v).read b = m.read b := by
  induction m with
  | nil => by_cases hv : v = Memory.blank <;> simp [Memory.write, Memory.read, hv, Ne.symm h]
  | cons c rest ih =>
    obtain ⟨k, w⟩ := c
    by_cases h1 : k < a
    · simp [Memory.write, Memory.read, h1, ih]
    · by_cases h2 : k = a
      · subst h2
        by_cases hv : v = Memory.blank <;> simp [Memory.write, Memory.read, hv, Ne.symm h]
      · by_cases hv : v = Memory.blank <;> simp [Memory.write, Memory.read, h1, h2, hv, Ne.symm h]

/-- Below the first address of a canonical list every address reads as blank. -/
theorem Memory.read_below (m : Memory) (lo a : Nat) (h : Memory.wfFrom lo m = true) (ha : a < lo) :
    m.read a = Memory.blank := by
  induction m generalizing lo with
  | nil => rfl
  | cons c rest ih =>
    obtain ⟨k, w⟩ := c
    simp only [Memory.wfFrom, Bool.and_eq_true, decide_eq_true_eq] at h
    have hk : k ≠ a := by omega
    rw [Memory.read, if_neg hk]
    exact ih (k + 1) h.2 (by omega)

/-- The canonical form from an address on is the canonical form from any lower one on. -/
theorem Memory.wfFrom_mono (m : Memory) (lo lo' : Nat) (h : Memory.wfFrom lo m = true) (hl : lo' ≤ lo) :
    Memory.wfFrom lo' m = true := by
  cases m with
  | nil => rfl
  | cons c rest =>
    obtain ⟨k, w⟩ := c
    simp only [Memory.wfFrom, Bool.and_eq_true, decide_eq_true_eq] at h ⊢
    exact ⟨⟨⟨by omega, h.1.1.2⟩, h.1.2⟩, h.2⟩

/-- In a canonical list an address reads as written, whatever address the list starts at. -/
theorem Memory.read_write_same_from (m : Memory) (lo a : Nat) (v : Byte) (h : Memory.wfFrom lo m = true) :
    (m.write a v).read a = v := by
  induction m generalizing lo with
  | nil => by_cases hv : v = Memory.blank <;> simp [Memory.write, Memory.read, hv]
  | cons c rest ih =>
    obtain ⟨k, w⟩ := c
    have hlo := h
    simp only [Memory.wfFrom, Bool.and_eq_true, decide_eq_true_eq] at hlo
    by_cases h1 : k < a
    · have hne : k ≠ a := by omega
      simp only [Memory.write, h1, if_true, Memory.read, if_neg hne]
      exact ih (k + 1) hlo.2
    · have below : a ≤ k → Memory.read rest a = Memory.blank := fun _ =>
        Memory.read_below rest (k + 1) a hlo.2 (by omega)
      by_cases h2 : k = a
      · by_cases hv : v = Memory.blank <;> simp [Memory.write, Memory.read, h2, hv, below (by omega)]
      · by_cases hv : v = Memory.blank <;> simp [Memory.write, Memory.read, h1, h2, hv, below (by omega)]

/-- In the canonical form an address reads as written (R66). -/
theorem Memory.read_write_same (m : Memory) (a : Nat) (v : Byte) (h : m.wf = true) : (m.write a v).read a = v :=
  Memory.read_write_same_from m 0 a v h

/-- A write keeps the canonical form from an address on that is not above the one written. -/
theorem Memory.write_wfFrom (m : Memory) (lo a : Nat) (v : Byte) (h : Memory.wfFrom lo m = true) (hl : lo ≤ a)
    (ha : a < Config.memBytes) : Memory.wfFrom lo (m.write a v) = true := by
  induction m generalizing lo with
  | nil =>
    by_cases hv : v = Memory.blank
    · simp [Memory.write, hv, Memory.wfFrom]
    · simp [Memory.write, hv, Memory.wfFrom, hl, ha]
  | cons c rest ih =>
    obtain ⟨k, w⟩ := c
    have hlo := h
    simp only [Memory.wfFrom, Bool.and_eq_true, decide_eq_true_eq, bne_iff_ne] at hlo
    obtain ⟨⟨⟨hk, hkm⟩, hw⟩, hr⟩ := hlo
    by_cases h1 : k < a
    · simp [Memory.write, h1, Memory.wfFrom, hk, hkm, hw, ih (k + 1) hr (by omega)]
    · by_cases h2 : k = a
      · subst h2
        by_cases hv : v = Memory.blank
        · simpa [Memory.write, hv] using Memory.wfFrom_mono rest (k + 1) lo hr (by omega)
        · simp [Memory.write, hv, Memory.wfFrom, hk, hkm, hr]
      · by_cases hv : v = Memory.blank
        · simpa [Memory.write, h1, h2, hv] using h
        · have : a + 1 ≤ k := by omega
          simp [Memory.write, h1, h2, hv, Memory.wfFrom, hl, ha, hkm, hw, hr, this]

/-- Every write inside the address space keeps the canonical form. -/
theorem Memory.write_wf (m : Memory) (a : Nat) (v : Byte) (h : m.wf = true) (ha : a < Config.memBytes) :
    (m.write a v).wf = true :=
  Memory.write_wfFrom m 0 a v h (Nat.zero_le a) ha

/-- An address of the machine lies in the address space (R50). -/
theorem Addr_toNat_lt (a : Addr) : a.toNat < Config.memBytes := a.isLt

/-- The canonical form is canonical: two lists in it that read alike at every address are the same list. -/
theorem Memory.eq_of_read_eq (m m' : Memory) (lo : Nat) (h : Memory.wfFrom lo m = true)
    (h' : Memory.wfFrom lo m' = true) (hr : ∀ a, m.read a = m'.read a) : m = m' := by
  induction m generalizing m' lo with
  | nil =>
    cases m' with
    | nil => rfl
    | cons c rest =>
      obtain ⟨k, w⟩ := c
      simp only [Memory.wfFrom, Bool.and_eq_true, decide_eq_true_eq, bne_iff_ne] at h'
      have := hr k
      simp [Memory.read] at this
      exact absurd this.symm h'.1.2
  | cons c rest ih =>
    obtain ⟨k, w⟩ := c
    have hm := h
    simp only [Memory.wfFrom, Bool.and_eq_true, decide_eq_true_eq, bne_iff_ne] at hm
    cases m' with
    | nil =>
      have := hr k
      simp [Memory.read] at this
      exact absurd this hm.1.2
    | cons c' rest' =>
      obtain ⟨k', w'⟩ := c'
      have hm' := h'
      simp only [Memory.wfFrom, Bool.and_eq_true, decide_eq_true_eq, bne_iff_ne] at hm'
      have below : ∀ a, a < k + 1 → Memory.read rest a = Memory.blank := fun a ha =>
        Memory.read_below rest (k + 1) a hm.2 ha
      have below' : ∀ a, a < k' + 1 → Memory.read rest' a = Memory.blank := fun a ha =>
        Memory.read_below rest' (k' + 1) a hm'.2 ha
      have hkk : k = k' := by
        rcases Nat.lt_trichotomy k k' with hlt | heq | hgt
        · have := hr k
          simp [Memory.read, below' k (by omega), Nat.ne_of_gt hlt] at this
          exact absurd this hm.1.2
        · exact heq
        · have := hr k'
          simp [Memory.read, below k' (by omega), Nat.ne_of_gt hgt] at this
          exact absurd this.symm hm'.1.2
      subst hkk
      have hw : w = w' := by
        have := hr k
        simpa [Memory.read] using this
      subst hw
      have hrest : ∀ a, Memory.read rest a = Memory.read rest' a := by
        intro a
        by_cases ha : k = a
        · rw [below a (by omega), below' a (by omega)]
        · have := hr a
          simpa [Memory.read, ha] using this
      rw [ih rest' (k + 1) hm.2 hm'.2 hrest]

end Sys2Proof.Machine
end

