-- ==== Sys2Proof/Laws/State.lean ====
section
/-!
SUPPORT. One lemma for each field under each plain update of the state, true by computation, so that no proof unfolds a
record update.
-/

namespace Sys2Proof.Machine

/-! ## `setZSP` -/
@[simp] theorem State.setZSP_rA (s : State) (v : Byte) : (s.setZSP v).rA = s.rA := rfl
@[simp] theorem State.setZSP_rB (s : State) (v : Byte) : (s.setZSP v).rB = s.rB := rfl
@[simp] theorem State.setZSP_rC (s : State) (v : Byte) : (s.setZSP v).rC = s.rC := rfl
@[simp] theorem State.setZSP_rD (s : State) (v : Byte) : (s.setZSP v).rD = s.rD := rfl
@[simp] theorem State.setZSP_rE (s : State) (v : Byte) : (s.setZSP v).rE = s.rE := rfl
@[simp] theorem State.setZSP_rH (s : State) (v : Byte) : (s.setZSP v).rH = s.rH := rfl
@[simp] theorem State.setZSP_rL (s : State) (v : Byte) : (s.setZSP v).rL = s.rL := rfl
@[simp] theorem State.setZSP_stk (s : State) (v : Byte) : (s.setZSP v).stk = s.stk := rfl
@[simp] theorem State.setZSP_sp (s : State) (v : Byte) : (s.setZSP v).sp = s.sp := rfl
@[simp] theorem State.setZSP_fC (s : State) (v : Byte) : (s.setZSP v).fC = s.fC := rfl
@[simp] theorem State.setZSP_fZ (s : State) (v : Byte) : (s.setZSP v).fZ = (v == 0) := rfl
@[simp] theorem State.setZSP_fS (s : State) (v : Byte) : (s.setZSP v).fS = v[7] := rfl
@[simp] theorem State.setZSP_fP (s : State) (v : Byte) : (s.setZSP v).fP = parity v := rfl
@[simp] theorem State.setZSP_ir (s : State) (v : Byte) : (s.setZSP v).ir = s.ir := rfl
@[simp] theorem State.setZSP_tmpA (s : State) (v : Byte) : (s.setZSP v).tmpA = s.tmpA := rfl
@[simp] theorem State.setZSP_tmpB (s : State) (v : Byte) : (s.setZSP v).tmpB = s.tmpB := rfl
@[simp] theorem State.setZSP_stopped (s : State) (v : Byte) : (s.setZSP v).stopped = s.stopped := rfl
@[simp] theorem State.setZSP_tstate (s : State) (v : Byte) : (s.setZSP v).tstate = s.tstate := rfl
@[simp] theorem State.setZSP_cycle (s : State) (v : Byte) : (s.setZSP v).cycle = s.cycle := rfl
@[simp] theorem State.setZSP_mem (s : State) (v : Byte) : (s.setZSP v).mem = s.mem := rfl
@[simp] theorem State.setZSP_memMap (s : State) (v : Byte) : (s.setZSP v).memMap = s.memMap := rfl
@[simp] theorem State.setZSP_interrupts (s : State) (v : Byte) : (s.setZSP v).interrupts = s.interrupts := rfl
@[simp] theorem State.setZSP_offersDrawn (s : State) (v : Byte) : (s.setZSP v).offersDrawn = s.offersDrawn := rfl
@[simp] theorem State.setZSP_inputs (s : State) (v : Byte) : (s.setZSP v).inputs = s.inputs := rfl
@[simp] theorem State.setZSP_draws (s : State) (v : Byte) : (s.setZSP v).draws = s.draws := rfl
@[simp] theorem State.setZSP_events (s : State) (v : Byte) : (s.setZSP v).events = s.events := rfl
@[simp] theorem State.setZSP_testBus (s : State) (v : Byte) : (s.setZSP v).testBus = s.testBus := rfl
@[simp] theorem State.setZSP_states (s : State) (v : Byte) : (s.setZSP v).states = s.states := rfl
@[simp] theorem State.setZSP_reg (s : State) (v : Byte) (q : Reg) : (s.setZSP v).reg q = s.reg q := by
  cases q <;> rfl
@[simp] theorem State.setZSP_mAddr (s : State) (v : Byte) : (s.setZSP v).mAddr = s.mAddr := rfl
@[simp] theorem State.setZSP_pc (s : State) (v : Byte) : (s.setZSP v).pc = s.pc := rfl
@[simp] theorem State.setZSP_kindAt (s : State) (v : Byte) (x : Addr) : (s.setZSP v).kindAt x = s.kindAt x := rfl

/-! ## `setFC` -/
@[simp] theorem State.setFC_rA (s : State) (c : Bool) : (s.setFC c).rA = s.rA := rfl
@[simp] theorem State.setFC_rB (s : State) (c : Bool) : (s.setFC c).rB = s.rB := rfl
@[simp] theorem State.setFC_rC (s : State) (c : Bool) : (s.setFC c).rC = s.rC := rfl
@[simp] theorem State.setFC_rD (s : State) (c : Bool) : (s.setFC c).rD = s.rD := rfl
@[simp] theorem State.setFC_rE (s : State) (c : Bool) : (s.setFC c).rE = s.rE := rfl
@[simp] theorem State.setFC_rH (s : State) (c : Bool) : (s.setFC c).rH = s.rH := rfl
@[simp] theorem State.setFC_rL (s : State) (c : Bool) : (s.setFC c).rL = s.rL := rfl
@[simp] theorem State.setFC_stk (s : State) (c : Bool) : (s.setFC c).stk = s.stk := rfl
@[simp] theorem State.setFC_sp (s : State) (c : Bool) : (s.setFC c).sp = s.sp := rfl
@[simp] theorem State.setFC_fC (s : State) (c : Bool) : (s.setFC c).fC = c := rfl
@[simp] theorem State.setFC_fZ (s : State) (c : Bool) : (s.setFC c).fZ = s.fZ := rfl
@[simp] theorem State.setFC_fS (s : State) (c : Bool) : (s.setFC c).fS = s.fS := rfl
@[simp] theorem State.setFC_fP (s : State) (c : Bool) : (s.setFC c).fP = s.fP := rfl
@[simp] theorem State.setFC_ir (s : State) (c : Bool) : (s.setFC c).ir = s.ir := rfl
@[simp] theorem State.setFC_tmpA (s : State) (c : Bool) : (s.setFC c).tmpA = s.tmpA := rfl
@[simp] theorem State.setFC_tmpB (s : State) (c : Bool) : (s.setFC c).tmpB = s.tmpB := rfl
@[simp] theorem State.setFC_stopped (s : State) (c : Bool) : (s.setFC c).stopped = s.stopped := rfl
@[simp] theorem State.setFC_tstate (s : State) (c : Bool) : (s.setFC c).tstate = s.tstate := rfl
@[simp] theorem State.setFC_cycle (s : State) (c : Bool) : (s.setFC c).cycle = s.cycle := rfl
@[simp] theorem State.setFC_mem (s : State) (c : Bool) : (s.setFC c).mem = s.mem := rfl
@[simp] theorem State.setFC_memMap (s : State) (c : Bool) : (s.setFC c).memMap = s.memMap := rfl
@[simp] theorem State.setFC_interrupts (s : State) (c : Bool) : (s.setFC c).interrupts = s.interrupts := rfl
@[simp] theorem State.setFC_offersDrawn (s : State) (c : Bool) : (s.setFC c).offersDrawn = s.offersDrawn := rfl
@[simp] theorem State.setFC_inputs (s : State) (c : Bool) : (s.setFC c).inputs = s.inputs := rfl
@[simp] theorem State.setFC_draws (s : State) (c : Bool) : (s.setFC c).draws = s.draws := rfl
@[simp] theorem State.setFC_events (s : State) (c : Bool) : (s.setFC c).events = s.events := rfl
@[simp] theorem State.setFC_testBus (s : State) (c : Bool) : (s.setFC c).testBus = s.testBus := rfl
@[simp] theorem State.setFC_states (s : State) (c : Bool) : (s.setFC c).states = s.states := rfl
@[simp] theorem State.setFC_reg (s : State) (c : Bool) (q : Reg) : (s.setFC c).reg q = s.reg q := by
  cases q <;> rfl
@[simp] theorem State.setFC_mAddr (s : State) (c : Bool) : (s.setFC c).mAddr = s.mAddr := rfl
@[simp] theorem State.setFC_pc (s : State) (c : Bool) : (s.setFC c).pc = s.pc := rfl
@[simp] theorem State.setFC_kindAt (s : State) (c : Bool) (x : Addr) : (s.setFC c).kindAt x = s.kindAt x := rfl

/-! ## `setPc` -/
@[simp] theorem State.setPc_rA (s : State) (a : Addr) : (s.setPc a).rA = s.rA := rfl
@[simp] theorem State.setPc_rB (s : State) (a : Addr) : (s.setPc a).rB = s.rB := rfl
@[simp] theorem State.setPc_rC (s : State) (a : Addr) : (s.setPc a).rC = s.rC := rfl
@[simp] theorem State.setPc_rD (s : State) (a : Addr) : (s.setPc a).rD = s.rD := rfl
@[simp] theorem State.setPc_rE (s : State) (a : Addr) : (s.setPc a).rE = s.rE := rfl
@[simp] theorem State.setPc_rH (s : State) (a : Addr) : (s.setPc a).rH = s.rH := rfl
@[simp] theorem State.setPc_rL (s : State) (a : Addr) : (s.setPc a).rL = s.rL := rfl
@[simp] theorem State.setPc_stk (s : State) (a : Addr) : (s.setPc a).stk = s.stk.set s.sp.val a s.sp.isLt := rfl
@[simp] theorem State.setPc_sp (s : State) (a : Addr) : (s.setPc a).sp = s.sp := rfl
@[simp] theorem State.setPc_fC (s : State) (a : Addr) : (s.setPc a).fC = s.fC := rfl
@[simp] theorem State.setPc_fZ (s : State) (a : Addr) : (s.setPc a).fZ = s.fZ := rfl
@[simp] theorem State.setPc_fS (s : State) (a : Addr) : (s.setPc a).fS = s.fS := rfl
@[simp] theorem State.setPc_fP (s : State) (a : Addr) : (s.setPc a).fP = s.fP := rfl
@[simp] theorem State.setPc_ir (s : State) (a : Addr) : (s.setPc a).ir = s.ir := rfl
@[simp] theorem State.setPc_tmpA (s : State) (a : Addr) : (s.setPc a).tmpA = s.tmpA := rfl
@[simp] theorem State.setPc_tmpB (s : State) (a : Addr) : (s.setPc a).tmpB = s.tmpB := rfl
@[simp] theorem State.setPc_stopped (s : State) (a : Addr) : (s.setPc a).stopped = s.stopped := rfl
@[simp] theorem State.setPc_tstate (s : State) (a : Addr) : (s.setPc a).tstate = s.tstate := rfl
@[simp] theorem State.setPc_cycle (s : State) (a : Addr) : (s.setPc a).cycle = s.cycle := rfl
@[simp] theorem State.setPc_mem (s : State) (a : Addr) : (s.setPc a).mem = s.mem := rfl
@[simp] theorem State.setPc_memMap (s : State) (a : Addr) : (s.setPc a).memMap = s.memMap := rfl
@[simp] theorem State.setPc_interrupts (s : State) (a : Addr) : (s.setPc a).interrupts = s.interrupts := rfl
@[simp] theorem State.setPc_offersDrawn (s : State) (a : Addr) : (s.setPc a).offersDrawn = s.offersDrawn := rfl
@[simp] theorem State.setPc_inputs (s : State) (a : Addr) : (s.setPc a).inputs = s.inputs := rfl
@[simp] theorem State.setPc_draws (s : State) (a : Addr) : (s.setPc a).draws = s.draws := rfl
@[simp] theorem State.setPc_events (s : State) (a : Addr) : (s.setPc a).events = s.events := rfl
@[simp] theorem State.setPc_testBus (s : State) (a : Addr) : (s.setPc a).testBus = s.testBus := rfl
@[simp] theorem State.setPc_states (s : State) (a : Addr) : (s.setPc a).states = s.states := rfl
@[simp] theorem State.setPc_reg (s : State) (a : Addr) (q : Reg) : (s.setPc a).reg q = s.reg q := by
  cases q <;> rfl
@[simp] theorem State.setPc_mAddr (s : State) (a : Addr) : (s.setPc a).mAddr = s.mAddr := rfl
@[simp] theorem State.setPc_cond (s : State) (a : Addr) (cc : Cond) : (s.setPc a).cond cc = s.cond cc := by
  cases cc <;> rfl
@[simp] theorem State.setPc_flagNibble (s : State) (a : Addr) : (s.setPc a).flagNibble = s.flagNibble := rfl
@[simp] theorem State.setPc_kindAt (s : State) (a : Addr) (x : Addr) : (s.setPc a).kindAt x = s.kindAt x := rfl

/-! ## `setTmpA` -/
@[simp] theorem State.setTmpA_rA (s : State) (v : Byte) : (s.setTmpA v).rA = s.rA := rfl
@[simp] theorem State.setTmpA_rB (s : State) (v : Byte) : (s.setTmpA v).rB = s.rB := rfl
@[simp] theorem State.setTmpA_rC (s : State) (v : Byte) : (s.setTmpA v).rC = s.rC := rfl
@[simp] theorem State.setTmpA_rD (s : State) (v : Byte) : (s.setTmpA v).rD = s.rD := rfl
@[simp] theorem State.setTmpA_rE (s : State) (v : Byte) : (s.setTmpA v).rE = s.rE := rfl
@[simp] theorem State.setTmpA_rH (s : State) (v : Byte) : (s.setTmpA v).rH = s.rH := rfl
@[simp] theorem State.setTmpA_rL (s : State) (v : Byte) : (s.setTmpA v).rL = s.rL := rfl
@[simp] theorem State.setTmpA_stk (s : State) (v : Byte) : (s.setTmpA v).stk = s.stk := rfl
@[simp] theorem State.setTmpA_sp (s : State) (v : Byte) : (s.setTmpA v).sp = s.sp := rfl
@[simp] theorem State.setTmpA_fC (s : State) (v : Byte) : (s.setTmpA v).fC = s.fC := rfl
@[simp] theorem State.setTmpA_fZ (s : State) (v : Byte) : (s.setTmpA v).fZ = s.fZ := rfl
@[simp] theorem State.setTmpA_fS (s : State) (v : Byte) : (s.setTmpA v).fS = s.fS := rfl
@[simp] theorem State.setTmpA_fP (s : State) (v : Byte) : (s.setTmpA v).fP = s.fP := rfl
@[simp] theorem State.setTmpA_ir (s : State) (v : Byte) : (s.setTmpA v).ir = s.ir := rfl
@[simp] theorem State.setTmpA_tmpA (s : State) (v : Byte) : (s.setTmpA v).tmpA = v := rfl
@[simp] theorem State.setTmpA_tmpB (s : State) (v : Byte) : (s.setTmpA v).tmpB = s.tmpB := rfl
@[simp] theorem State.setTmpA_stopped (s : State) (v : Byte) : (s.setTmpA v).stopped = s.stopped := rfl
@[simp] theorem State.setTmpA_tstate (s : State) (v : Byte) : (s.setTmpA v).tstate = s.tstate := rfl
@[simp] theorem State.setTmpA_cycle (s : State) (v : Byte) : (s.setTmpA v).cycle = s.cycle := rfl
@[simp] theorem State.setTmpA_mem (s : State) (v : Byte) : (s.setTmpA v).mem = s.mem := rfl
@[simp] theorem State.setTmpA_memMap (s : State) (v : Byte) : (s.setTmpA v).memMap = s.memMap := rfl
@[simp] theorem State.setTmpA_interrupts (s : State) (v : Byte) : (s.setTmpA v).interrupts = s.interrupts := rfl
@[simp] theorem State.setTmpA_offersDrawn (s : State) (v : Byte) : (s.setTmpA v).offersDrawn = s.offersDrawn := rfl
@[simp] theorem State.setTmpA_inputs (s : State) (v : Byte) : (s.setTmpA v).inputs = s.inputs := rfl
@[simp] theorem State.setTmpA_draws (s : State) (v : Byte) : (s.setTmpA v).draws = s.draws := rfl
@[simp] theorem State.setTmpA_events (s : State) (v : Byte) : (s.setTmpA v).events = s.events := rfl
@[simp] theorem State.setTmpA_testBus (s : State) (v : Byte) : (s.setTmpA v).testBus = s.testBus := rfl
@[simp] theorem State.setTmpA_states (s : State) (v : Byte) : (s.setTmpA v).states = s.states := rfl
@[simp] theorem State.setTmpA_reg (s : State) (v : Byte) (q : Reg) : (s.setTmpA v).reg q = s.reg q := by
  cases q <;> rfl
@[simp] theorem State.setTmpA_mAddr (s : State) (v : Byte) : (s.setTmpA v).mAddr = s.mAddr := rfl
@[simp] theorem State.setTmpA_cond (s : State) (v : Byte) (cc : Cond) : (s.setTmpA v).cond cc = s.cond cc := by
  cases cc <;> rfl
@[simp] theorem State.setTmpA_flagNibble (s : State) (v : Byte) : (s.setTmpA v).flagNibble = s.flagNibble := rfl
@[simp] theorem State.setTmpA_pc (s : State) (v : Byte) : (s.setTmpA v).pc = s.pc := rfl
@[simp] theorem State.setTmpA_kindAt (s : State) (v : Byte) (x : Addr) : (s.setTmpA v).kindAt x = s.kindAt x := rfl

/-! ## `setTmpB` -/
@[simp] theorem State.setTmpB_rA (s : State) (v : Byte) : (s.setTmpB v).rA = s.rA := rfl
@[simp] theorem State.setTmpB_rB (s : State) (v : Byte) : (s.setTmpB v).rB = s.rB := rfl
@[simp] theorem State.setTmpB_rC (s : State) (v : Byte) : (s.setTmpB v).rC = s.rC := rfl
@[simp] theorem State.setTmpB_rD (s : State) (v : Byte) : (s.setTmpB v).rD = s.rD := rfl
@[simp] theorem State.setTmpB_rE (s : State) (v : Byte) : (s.setTmpB v).rE = s.rE := rfl
@[simp] theorem State.setTmpB_rH (s : State) (v : Byte) : (s.setTmpB v).rH = s.rH := rfl
@[simp] theorem State.setTmpB_rL (s : State) (v : Byte) : (s.setTmpB v).rL = s.rL := rfl
@[simp] theorem State.setTmpB_stk (s : State) (v : Byte) : (s.setTmpB v).stk = s.stk := rfl
@[simp] theorem State.setTmpB_sp (s : State) (v : Byte) : (s.setTmpB v).sp = s.sp := rfl
@[simp] theorem State.setTmpB_fC (s : State) (v : Byte) : (s.setTmpB v).fC = s.fC := rfl
@[simp] theorem State.setTmpB_fZ (s : State) (v : Byte) : (s.setTmpB v).fZ = s.fZ := rfl
@[simp] theorem State.setTmpB_fS (s : State) (v : Byte) : (s.setTmpB v).fS = s.fS := rfl
@[simp] theorem State.setTmpB_fP (s : State) (v : Byte) : (s.setTmpB v).fP = s.fP := rfl
@[simp] theorem State.setTmpB_ir (s : State) (v : Byte) : (s.setTmpB v).ir = s.ir := rfl
@[simp] theorem State.setTmpB_tmpA (s : State) (v : Byte) : (s.setTmpB v).tmpA = s.tmpA := rfl
@[simp] theorem State.setTmpB_tmpB (s : State) (v : Byte) : (s.setTmpB v).tmpB = v := rfl
@[simp] theorem State.setTmpB_stopped (s : State) (v : Byte) : (s.setTmpB v).stopped = s.stopped := rfl
@[simp] theorem State.setTmpB_tstate (s : State) (v : Byte) : (s.setTmpB v).tstate = s.tstate := rfl
@[simp] theorem State.setTmpB_cycle (s : State) (v : Byte) : (s.setTmpB v).cycle = s.cycle := rfl
@[simp] theorem State.setTmpB_mem (s : State) (v : Byte) : (s.setTmpB v).mem = s.mem := rfl
@[simp] theorem State.setTmpB_memMap (s : State) (v : Byte) : (s.setTmpB v).memMap = s.memMap := rfl
@[simp] theorem State.setTmpB_interrupts (s : State) (v : Byte) : (s.setTmpB v).interrupts = s.interrupts := rfl
@[simp] theorem State.setTmpB_offersDrawn (s : State) (v : Byte) : (s.setTmpB v).offersDrawn = s.offersDrawn := rfl
@[simp] theorem State.setTmpB_inputs (s : State) (v : Byte) : (s.setTmpB v).inputs = s.inputs := rfl
@[simp] theorem State.setTmpB_draws (s : State) (v : Byte) : (s.setTmpB v).draws = s.draws := rfl
@[simp] theorem State.setTmpB_events (s : State) (v : Byte) : (s.setTmpB v).events = s.events := rfl
@[simp] theorem State.setTmpB_testBus (s : State) (v : Byte) : (s.setTmpB v).testBus = s.testBus := rfl
@[simp] theorem State.setTmpB_states (s : State) (v : Byte) : (s.setTmpB v).states = s.states := rfl
@[simp] theorem State.setTmpB_reg (s : State) (v : Byte) (q : Reg) : (s.setTmpB v).reg q = s.reg q := by
  cases q <;> rfl
@[simp] theorem State.setTmpB_mAddr (s : State) (v : Byte) : (s.setTmpB v).mAddr = s.mAddr := rfl
@[simp] theorem State.setTmpB_cond (s : State) (v : Byte) (cc : Cond) : (s.setTmpB v).cond cc = s.cond cc := by
  cases cc <;> rfl
@[simp] theorem State.setTmpB_flagNibble (s : State) (v : Byte) : (s.setTmpB v).flagNibble = s.flagNibble := rfl
@[simp] theorem State.setTmpB_pc (s : State) (v : Byte) : (s.setTmpB v).pc = s.pc := rfl
@[simp] theorem State.setTmpB_kindAt (s : State) (v : Byte) (x : Addr) : (s.setTmpB v).kindAt x = s.kindAt x := rfl

/-! ## `log` -/
@[simp] theorem State.log_rA (s : State) (e : Event) : (s.log e).rA = s.rA := rfl
@[simp] theorem State.log_rB (s : State) (e : Event) : (s.log e).rB = s.rB := rfl
@[simp] theorem State.log_rC (s : State) (e : Event) : (s.log e).rC = s.rC := rfl
@[simp] theorem State.log_rD (s : State) (e : Event) : (s.log e).rD = s.rD := rfl
@[simp] theorem State.log_rE (s : State) (e : Event) : (s.log e).rE = s.rE := rfl
@[simp] theorem State.log_rH (s : State) (e : Event) : (s.log e).rH = s.rH := rfl
@[simp] theorem State.log_rL (s : State) (e : Event) : (s.log e).rL = s.rL := rfl
@[simp] theorem State.log_stk (s : State) (e : Event) : (s.log e).stk = s.stk := rfl
@[simp] theorem State.log_sp (s : State) (e : Event) : (s.log e).sp = s.sp := rfl
@[simp] theorem State.log_fC (s : State) (e : Event) : (s.log e).fC = s.fC := rfl
@[simp] theorem State.log_fZ (s : State) (e : Event) : (s.log e).fZ = s.fZ := rfl
@[simp] theorem State.log_fS (s : State) (e : Event) : (s.log e).fS = s.fS := rfl
@[simp] theorem State.log_fP (s : State) (e : Event) : (s.log e).fP = s.fP := rfl
@[simp] theorem State.log_ir (s : State) (e : Event) : (s.log e).ir = s.ir := rfl
@[simp] theorem State.log_tmpA (s : State) (e : Event) : (s.log e).tmpA = s.tmpA := rfl
@[simp] theorem State.log_tmpB (s : State) (e : Event) : (s.log e).tmpB = s.tmpB := rfl
@[simp] theorem State.log_stopped (s : State) (e : Event) : (s.log e).stopped = s.stopped := rfl
@[simp] theorem State.log_tstate (s : State) (e : Event) : (s.log e).tstate = s.tstate := rfl
@[simp] theorem State.log_cycle (s : State) (e : Event) : (s.log e).cycle = s.cycle := rfl
@[simp] theorem State.log_mem (s : State) (e : Event) : (s.log e).mem = s.mem := rfl
@[simp] theorem State.log_memMap (s : State) (e : Event) : (s.log e).memMap = s.memMap := rfl
@[simp] theorem State.log_interrupts (s : State) (e : Event) : (s.log e).interrupts = s.interrupts := rfl
@[simp] theorem State.log_offersDrawn (s : State) (e : Event) : (s.log e).offersDrawn = s.offersDrawn := rfl
@[simp] theorem State.log_inputs (s : State) (e : Event) : (s.log e).inputs = s.inputs := rfl
@[simp] theorem State.log_draws (s : State) (e : Event) : (s.log e).draws = s.draws := rfl
@[simp] theorem State.log_events (s : State) (e : Event) : (s.log e).events = e :: s.events := rfl
@[simp] theorem State.log_testBus (s : State) (e : Event) : (s.log e).testBus = s.testBus := rfl
@[simp] theorem State.log_states (s : State) (e : Event) : (s.log e).states = s.states := rfl
@[simp] theorem State.log_reg (s : State) (e : Event) (q : Reg) : (s.log e).reg q = s.reg q := by
  cases q <;> rfl
@[simp] theorem State.log_mAddr (s : State) (e : Event) : (s.log e).mAddr = s.mAddr := rfl
@[simp] theorem State.log_cond (s : State) (e : Event) (cc : Cond) : (s.log e).cond cc = s.cond cc := by
  cases cc <;> rfl
@[simp] theorem State.log_flagNibble (s : State) (e : Event) : (s.log e).flagNibble = s.flagNibble := rfl
@[simp] theorem State.log_pc (s : State) (e : Event) : (s.log e).pc = s.pc := rfl
@[simp] theorem State.log_kindAt (s : State) (e : Event) (x : Addr) : (s.log e).kindAt x = s.kindAt x := rfl

/-! ## `showBus` -/
@[simp] theorem State.showBus_rA (s : State) (c : Cycle) (t : TState) (v : Byte) : (s.showBus c t v).rA = s.rA := rfl
@[simp] theorem State.showBus_rB (s : State) (c : Cycle) (t : TState) (v : Byte) : (s.showBus c t v).rB = s.rB := rfl
@[simp] theorem State.showBus_rC (s : State) (c : Cycle) (t : TState) (v : Byte) : (s.showBus c t v).rC = s.rC := rfl
@[simp] theorem State.showBus_rD (s : State) (c : Cycle) (t : TState) (v : Byte) : (s.showBus c t v).rD = s.rD := rfl
@[simp] theorem State.showBus_rE (s : State) (c : Cycle) (t : TState) (v : Byte) : (s.showBus c t v).rE = s.rE := rfl
@[simp] theorem State.showBus_rH (s : State) (c : Cycle) (t : TState) (v : Byte) : (s.showBus c t v).rH = s.rH := rfl
@[simp] theorem State.showBus_rL (s : State) (c : Cycle) (t : TState) (v : Byte) : (s.showBus c t v).rL = s.rL := rfl
@[simp] theorem State.showBus_stk (s : State) (c : Cycle) (t : TState) (v : Byte) : (s.showBus c t v).stk = s.stk := rfl
@[simp] theorem State.showBus_sp (s : State) (c : Cycle) (t : TState) (v : Byte) : (s.showBus c t v).sp = s.sp := rfl
@[simp] theorem State.showBus_fC (s : State) (c : Cycle) (t : TState) (v : Byte) : (s.showBus c t v).fC = s.fC := rfl
@[simp] theorem State.showBus_fZ (s : State) (c : Cycle) (t : TState) (v : Byte) : (s.showBus c t v).fZ = s.fZ := rfl
@[simp] theorem State.showBus_fS (s : State) (c : Cycle) (t : TState) (v : Byte) : (s.showBus c t v).fS = s.fS := rfl
@[simp] theorem State.showBus_fP (s : State) (c : Cycle) (t : TState) (v : Byte) : (s.showBus c t v).fP = s.fP := rfl
@[simp] theorem State.showBus_ir (s : State) (c : Cycle) (t : TState) (v : Byte) : (s.showBus c t v).ir = s.ir := rfl
@[simp] theorem State.showBus_tmpA (s : State) (c : Cycle) (t : TState) (v : Byte) : (s.showBus c t v).tmpA = s.tmpA := rfl
@[simp] theorem State.showBus_tmpB (s : State) (c : Cycle) (t : TState) (v : Byte) : (s.showBus c t v).tmpB = s.tmpB := rfl
@[simp] theorem State.showBus_stopped (s : State) (c : Cycle) (t : TState) (v : Byte) : (s.showBus c t v).stopped = s.stopped := rfl
@[simp] theorem State.showBus_tstate (s : State) (c : Cycle) (t : TState) (v : Byte) : (s.showBus c t v).tstate = s.tstate := rfl
@[simp] theorem State.showBus_cycle (s : State) (c : Cycle) (t : TState) (v : Byte) : (s.showBus c t v).cycle = s.cycle := rfl
@[simp] theorem State.showBus_mem (s : State) (c : Cycle) (t : TState) (v : Byte) : (s.showBus c t v).mem = s.mem := rfl
@[simp] theorem State.showBus_memMap (s : State) (c : Cycle) (t : TState) (v : Byte) : (s.showBus c t v).memMap = s.memMap := rfl
@[simp] theorem State.showBus_interrupts (s : State) (c : Cycle) (t : TState) (v : Byte) : (s.showBus c t v).interrupts = s.interrupts := rfl
@[simp] theorem State.showBus_offersDrawn (s : State) (c : Cycle) (t : TState) (v : Byte) : (s.showBus c t v).offersDrawn = s.offersDrawn := rfl
@[simp] theorem State.showBus_inputs (s : State) (c : Cycle) (t : TState) (v : Byte) : (s.showBus c t v).inputs = s.inputs := rfl
@[simp] theorem State.showBus_draws (s : State) (c : Cycle) (t : TState) (v : Byte) : (s.showBus c t v).draws = s.draws := rfl
@[simp] theorem State.showBus_events (s : State) (c : Cycle) (t : TState) (v : Byte) : (s.showBus c t v).events = s.events := rfl
@[simp] theorem State.showBus_testBus (s : State) (c : Cycle) (t : TState) (v : Byte) : (s.showBus c t v).testBus = ⟨c, t, v⟩ :: s.testBus := rfl
@[simp] theorem State.showBus_states (s : State) (c : Cycle) (t : TState) (v : Byte) : (s.showBus c t v).states = s.states := rfl
@[simp] theorem State.showBus_reg (s : State) (c : Cycle) (t : TState) (v : Byte) (q : Reg) : (s.showBus c t v).reg q = s.reg q := by
  cases q <;> rfl
@[simp] theorem State.showBus_mAddr (s : State) (c : Cycle) (t : TState) (v : Byte) : (s.showBus c t v).mAddr = s.mAddr := rfl
@[simp] theorem State.showBus_cond (s : State) (c : Cycle) (t : TState) (v : Byte) (cc : Cond) : (s.showBus c t v).cond cc = s.cond cc := by
  cases cc <;> rfl
@[simp] theorem State.showBus_flagNibble (s : State) (c : Cycle) (t : TState) (v : Byte) : (s.showBus c t v).flagNibble = s.flagNibble := rfl
@[simp] theorem State.showBus_pc (s : State) (c : Cycle) (t : TState) (v : Byte) : (s.showBus c t v).pc = s.pc := rfl
@[simp] theorem State.showBus_kindAt (s : State) (c : Cycle) (t : TState) (v : Byte) (x : Addr) : (s.showBus c t v).kindAt x = s.kindAt x := rfl

/-! ## `showOpen` -/
@[simp] theorem State.showOpen_rA (s : State) (c : Cycle) (t : TState) : (s.showOpen c t).rA = s.rA := rfl
@[simp] theorem State.showOpen_rB (s : State) (c : Cycle) (t : TState) : (s.showOpen c t).rB = s.rB := rfl
@[simp] theorem State.showOpen_rC (s : State) (c : Cycle) (t : TState) : (s.showOpen c t).rC = s.rC := rfl
@[simp] theorem State.showOpen_rD (s : State) (c : Cycle) (t : TState) : (s.showOpen c t).rD = s.rD := rfl
@[simp] theorem State.showOpen_rE (s : State) (c : Cycle) (t : TState) : (s.showOpen c t).rE = s.rE := rfl
@[simp] theorem State.showOpen_rH (s : State) (c : Cycle) (t : TState) : (s.showOpen c t).rH = s.rH := rfl
@[simp] theorem State.showOpen_rL (s : State) (c : Cycle) (t : TState) : (s.showOpen c t).rL = s.rL := rfl
@[simp] theorem State.showOpen_stk (s : State) (c : Cycle) (t : TState) : (s.showOpen c t).stk = s.stk := rfl
@[simp] theorem State.showOpen_sp (s : State) (c : Cycle) (t : TState) : (s.showOpen c t).sp = s.sp := rfl
@[simp] theorem State.showOpen_fC (s : State) (c : Cycle) (t : TState) : (s.showOpen c t).fC = s.fC := rfl
@[simp] theorem State.showOpen_fZ (s : State) (c : Cycle) (t : TState) : (s.showOpen c t).fZ = s.fZ := rfl
@[simp] theorem State.showOpen_fS (s : State) (c : Cycle) (t : TState) : (s.showOpen c t).fS = s.fS := rfl
@[simp] theorem State.showOpen_fP (s : State) (c : Cycle) (t : TState) : (s.showOpen c t).fP = s.fP := rfl
@[simp] theorem State.showOpen_ir (s : State) (c : Cycle) (t : TState) : (s.showOpen c t).ir = s.ir := rfl
@[simp] theorem State.showOpen_tmpA (s : State) (c : Cycle) (t : TState) : (s.showOpen c t).tmpA = s.tmpA := rfl
@[simp] theorem State.showOpen_tmpB (s : State) (c : Cycle) (t : TState) : (s.showOpen c t).tmpB = s.tmpB := rfl
@[simp] theorem State.showOpen_stopped (s : State) (c : Cycle) (t : TState) : (s.showOpen c t).stopped = s.stopped := rfl
@[simp] theorem State.showOpen_tstate (s : State) (c : Cycle) (t : TState) : (s.showOpen c t).tstate = s.tstate := rfl
@[simp] theorem State.showOpen_cycle (s : State) (c : Cycle) (t : TState) : (s.showOpen c t).cycle = s.cycle := rfl
@[simp] theorem State.showOpen_mem (s : State) (c : Cycle) (t : TState) : (s.showOpen c t).mem = s.mem := rfl
@[simp] theorem State.showOpen_memMap (s : State) (c : Cycle) (t : TState) : (s.showOpen c t).memMap = s.memMap := rfl
@[simp] theorem State.showOpen_interrupts (s : State) (c : Cycle) (t : TState) : (s.showOpen c t).interrupts = s.interrupts := rfl
@[simp] theorem State.showOpen_offersDrawn (s : State) (c : Cycle) (t : TState) : (s.showOpen c t).offersDrawn = s.offersDrawn := rfl
@[simp] theorem State.showOpen_inputs (s : State) (c : Cycle) (t : TState) : (s.showOpen c t).inputs = s.inputs := rfl
@[simp] theorem State.showOpen_draws (s : State) (c : Cycle) (t : TState) : (s.showOpen c t).draws = s.draws := rfl
@[simp] theorem State.showOpen_events (s : State) (c : Cycle) (t : TState) : (s.showOpen c t).events = s.events := rfl
@[simp] theorem State.showOpen_testBus (s : State) (c : Cycle) (t : TState) : (s.showOpen c t).testBus = ⟨c, t, s.openByte⟩ :: s.testBus := rfl
@[simp] theorem State.showOpen_states (s : State) (c : Cycle) (t : TState) : (s.showOpen c t).states = s.states := rfl
@[simp] theorem State.showOpen_reg (s : State) (c : Cycle) (t : TState) (q : Reg) : (s.showOpen c t).reg q = s.reg q := by
  cases q <;> rfl
@[simp] theorem State.showOpen_mAddr (s : State) (c : Cycle) (t : TState) : (s.showOpen c t).mAddr = s.mAddr := rfl
@[simp] theorem State.showOpen_cond (s : State) (c : Cycle) (t : TState) (cc : Cond) : (s.showOpen c t).cond cc = s.cond cc := by
  cases cc <;> rfl
@[simp] theorem State.showOpen_flagNibble (s : State) (c : Cycle) (t : TState) : (s.showOpen c t).flagNibble = s.flagNibble := rfl
@[simp] theorem State.showOpen_pc (s : State) (c : Cycle) (t : TState) : (s.showOpen c t).pc = s.pc := rfl
@[simp] theorem State.showOpen_kindAt (s : State) (c : Cycle) (t : TState) (x : Addr) : (s.showOpen c t).kindAt x = s.kindAt x := rfl

/-! ## `showOpens` -/
@[simp] theorem State.showOpens_rA (s : State) (c : Cycle) : (s.showOpens c).rA = s.rA := rfl
@[simp] theorem State.showOpens_rB (s : State) (c : Cycle) : (s.showOpens c).rB = s.rB := rfl
@[simp] theorem State.showOpens_rC (s : State) (c : Cycle) : (s.showOpens c).rC = s.rC := rfl
@[simp] theorem State.showOpens_rD (s : State) (c : Cycle) : (s.showOpens c).rD = s.rD := rfl
@[simp] theorem State.showOpens_rE (s : State) (c : Cycle) : (s.showOpens c).rE = s.rE := rfl
@[simp] theorem State.showOpens_rH (s : State) (c : Cycle) : (s.showOpens c).rH = s.rH := rfl
@[simp] theorem State.showOpens_rL (s : State) (c : Cycle) : (s.showOpens c).rL = s.rL := rfl
@[simp] theorem State.showOpens_stk (s : State) (c : Cycle) : (s.showOpens c).stk = s.stk := rfl
@[simp] theorem State.showOpens_sp (s : State) (c : Cycle) : (s.showOpens c).sp = s.sp := rfl
@[simp] theorem State.showOpens_fC (s : State) (c : Cycle) : (s.showOpens c).fC = s.fC := rfl
@[simp] theorem State.showOpens_fZ (s : State) (c : Cycle) : (s.showOpens c).fZ = s.fZ := rfl
@[simp] theorem State.showOpens_fS (s : State) (c : Cycle) : (s.showOpens c).fS = s.fS := rfl
@[simp] theorem State.showOpens_fP (s : State) (c : Cycle) : (s.showOpens c).fP = s.fP := rfl
@[simp] theorem State.showOpens_ir (s : State) (c : Cycle) : (s.showOpens c).ir = s.ir := rfl
@[simp] theorem State.showOpens_tmpA (s : State) (c : Cycle) : (s.showOpens c).tmpA = s.tmpA := rfl
@[simp] theorem State.showOpens_tmpB (s : State) (c : Cycle) : (s.showOpens c).tmpB = s.tmpB := rfl
@[simp] theorem State.showOpens_stopped (s : State) (c : Cycle) : (s.showOpens c).stopped = s.stopped := rfl
@[simp] theorem State.showOpens_tstate (s : State) (c : Cycle) : (s.showOpens c).tstate = s.tstate := rfl
@[simp] theorem State.showOpens_cycle (s : State) (c : Cycle) : (s.showOpens c).cycle = s.cycle := rfl
@[simp] theorem State.showOpens_mem (s : State) (c : Cycle) : (s.showOpens c).mem = s.mem := rfl
@[simp] theorem State.showOpens_memMap (s : State) (c : Cycle) : (s.showOpens c).memMap = s.memMap := rfl
@[simp] theorem State.showOpens_interrupts (s : State) (c : Cycle) : (s.showOpens c).interrupts = s.interrupts := rfl
@[simp] theorem State.showOpens_offersDrawn (s : State) (c : Cycle) : (s.showOpens c).offersDrawn = s.offersDrawn := rfl
@[simp] theorem State.showOpens_inputs (s : State) (c : Cycle) : (s.showOpens c).inputs = s.inputs := rfl
@[simp] theorem State.showOpens_draws (s : State) (c : Cycle) : (s.showOpens c).draws = s.draws := rfl
@[simp] theorem State.showOpens_events (s : State) (c : Cycle) : (s.showOpens c).events = s.events := rfl
@[simp] theorem State.showOpens_testBus (s : State) (c : Cycle) : (s.showOpens c).testBus = ⟨c, .T5, (s.showOpen c .T4).openByte⟩ :: ⟨c, .T4, s.openByte⟩ :: s.testBus := rfl
@[simp] theorem State.showOpens_states (s : State) (c : Cycle) : (s.showOpens c).states = s.states := rfl
@[simp] theorem State.showOpens_reg (s : State) (c : Cycle) (q : Reg) : (s.showOpens c).reg q = s.reg q := by
  cases q <;> rfl
@[simp] theorem State.showOpens_mAddr (s : State) (c : Cycle) : (s.showOpens c).mAddr = s.mAddr := rfl
@[simp] theorem State.showOpens_cond (s : State) (c : Cycle) (cc : Cond) : (s.showOpens c).cond cc = s.cond cc := by
  cases cc <;> rfl
@[simp] theorem State.showOpens_flagNibble (s : State) (c : Cycle) : (s.showOpens c).flagNibble = s.flagNibble := rfl
@[simp] theorem State.showOpens_pc (s : State) (c : Cycle) : (s.showOpens c).pc = s.pc := rfl
@[simp] theorem State.showOpens_kindAt (s : State) (c : Cycle) (x : Addr) : (s.showOpens c).kindAt x = s.kindAt x := rfl

/-! ## `showBits` -/
@[simp] theorem State.showBits_rA (s : State) (c : Cycle) (t : TState) (v known : Byte) : (s.showBits c t v known).rA = s.rA := rfl
@[simp] theorem State.showBits_rB (s : State) (c : Cycle) (t : TState) (v known : Byte) : (s.showBits c t v known).rB = s.rB := rfl
@[simp] theorem State.showBits_rC (s : State) (c : Cycle) (t : TState) (v known : Byte) : (s.showBits c t v known).rC = s.rC := rfl
@[simp] theorem State.showBits_rD (s : State) (c : Cycle) (t : TState) (v known : Byte) : (s.showBits c t v known).rD = s.rD := rfl
@[simp] theorem State.showBits_rE (s : State) (c : Cycle) (t : TState) (v known : Byte) : (s.showBits c t v known).rE = s.rE := rfl
@[simp] theorem State.showBits_rH (s : State) (c : Cycle) (t : TState) (v known : Byte) : (s.showBits c t v known).rH = s.rH := rfl
@[simp] theorem State.showBits_rL (s : State) (c : Cycle) (t : TState) (v known : Byte) : (s.showBits c t v known).rL = s.rL := rfl
@[simp] theorem State.showBits_stk (s : State) (c : Cycle) (t : TState) (v known : Byte) : (s.showBits c t v known).stk = s.stk := rfl
@[simp] theorem State.showBits_sp (s : State) (c : Cycle) (t : TState) (v known : Byte) : (s.showBits c t v known).sp = s.sp := rfl
@[simp] theorem State.showBits_fC (s : State) (c : Cycle) (t : TState) (v known : Byte) : (s.showBits c t v known).fC = s.fC := rfl
@[simp] theorem State.showBits_fZ (s : State) (c : Cycle) (t : TState) (v known : Byte) : (s.showBits c t v known).fZ = s.fZ := rfl
@[simp] theorem State.showBits_fS (s : State) (c : Cycle) (t : TState) (v known : Byte) : (s.showBits c t v known).fS = s.fS := rfl
@[simp] theorem State.showBits_fP (s : State) (c : Cycle) (t : TState) (v known : Byte) : (s.showBits c t v known).fP = s.fP := rfl
@[simp] theorem State.showBits_ir (s : State) (c : Cycle) (t : TState) (v known : Byte) : (s.showBits c t v known).ir = s.ir := rfl
@[simp] theorem State.showBits_tmpA (s : State) (c : Cycle) (t : TState) (v known : Byte) : (s.showBits c t v known).tmpA = s.tmpA := rfl
@[simp] theorem State.showBits_tmpB (s : State) (c : Cycle) (t : TState) (v known : Byte) : (s.showBits c t v known).tmpB = s.tmpB := rfl
@[simp] theorem State.showBits_stopped (s : State) (c : Cycle) (t : TState) (v known : Byte) : (s.showBits c t v known).stopped = s.stopped := rfl
@[simp] theorem State.showBits_tstate (s : State) (c : Cycle) (t : TState) (v known : Byte) : (s.showBits c t v known).tstate = s.tstate := rfl
@[simp] theorem State.showBits_cycle (s : State) (c : Cycle) (t : TState) (v known : Byte) : (s.showBits c t v known).cycle = s.cycle := rfl
@[simp] theorem State.showBits_mem (s : State) (c : Cycle) (t : TState) (v known : Byte) : (s.showBits c t v known).mem = s.mem := rfl
@[simp] theorem State.showBits_memMap (s : State) (c : Cycle) (t : TState) (v known : Byte) : (s.showBits c t v known).memMap = s.memMap := rfl
@[simp] theorem State.showBits_interrupts (s : State) (c : Cycle) (t : TState) (v known : Byte) : (s.showBits c t v known).interrupts = s.interrupts := rfl
@[simp] theorem State.showBits_offersDrawn (s : State) (c : Cycle) (t : TState) (v known : Byte) : (s.showBits c t v known).offersDrawn = s.offersDrawn := rfl
@[simp] theorem State.showBits_inputs (s : State) (c : Cycle) (t : TState) (v known : Byte) : (s.showBits c t v known).inputs = s.inputs := rfl
@[simp] theorem State.showBits_draws (s : State) (c : Cycle) (t : TState) (v known : Byte) : (s.showBits c t v known).draws = s.draws := rfl
@[simp] theorem State.showBits_events (s : State) (c : Cycle) (t : TState) (v known : Byte) : (s.showBits c t v known).events = s.events := rfl
@[simp] theorem State.showBits_testBus (s : State) (c : Cycle) (t : TState) (v known : Byte) : (s.showBits c t v known).testBus = ⟨c, t, (v &&& known) ||| (s.openByte &&& ~~~known)⟩ :: s.testBus := rfl
@[simp] theorem State.showBits_states (s : State) (c : Cycle) (t : TState) (v known : Byte) : (s.showBits c t v known).states = s.states := rfl
@[simp] theorem State.showBits_reg (s : State) (c : Cycle) (t : TState) (v known : Byte) (q : Reg) : (s.showBits c t v known).reg q = s.reg q := by
  cases q <;> rfl
@[simp] theorem State.showBits_mAddr (s : State) (c : Cycle) (t : TState) (v known : Byte) : (s.showBits c t v known).mAddr = s.mAddr := rfl
@[simp] theorem State.showBits_cond (s : State) (c : Cycle) (t : TState) (v known : Byte) (cc : Cond) : (s.showBits c t v known).cond cc = s.cond cc := by
  cases cc <;> rfl
@[simp] theorem State.showBits_flagNibble (s : State) (c : Cycle) (t : TState) (v known : Byte) : (s.showBits c t v known).flagNibble = s.flagNibble := rfl
@[simp] theorem State.showBits_pc (s : State) (c : Cycle) (t : TState) (v known : Byte) : (s.showBits c t v known).pc = s.pc := rfl
@[simp] theorem State.showBits_kindAt (s : State) (c : Cycle) (t : TState) (v known : Byte) (x : Addr) : (s.showBits c t v known).kindAt x = s.kindAt x := rfl

/-! ## `showTarget` -/
@[simp] theorem State.showTarget_rA (s : State) : (s.showTarget).rA = s.rA := rfl
@[simp] theorem State.showTarget_rB (s : State) : (s.showTarget).rB = s.rB := rfl
@[simp] theorem State.showTarget_rC (s : State) : (s.showTarget).rC = s.rC := rfl
@[simp] theorem State.showTarget_rD (s : State) : (s.showTarget).rD = s.rD := rfl
@[simp] theorem State.showTarget_rE (s : State) : (s.showTarget).rE = s.rE := rfl
@[simp] theorem State.showTarget_rH (s : State) : (s.showTarget).rH = s.rH := rfl
@[simp] theorem State.showTarget_rL (s : State) : (s.showTarget).rL = s.rL := rfl
@[simp] theorem State.showTarget_stk (s : State) : (s.showTarget).stk = s.stk := rfl
@[simp] theorem State.showTarget_sp (s : State) : (s.showTarget).sp = s.sp := rfl
@[simp] theorem State.showTarget_fC (s : State) : (s.showTarget).fC = s.fC := rfl
@[simp] theorem State.showTarget_fZ (s : State) : (s.showTarget).fZ = s.fZ := rfl
@[simp] theorem State.showTarget_fS (s : State) : (s.showTarget).fS = s.fS := rfl
@[simp] theorem State.showTarget_fP (s : State) : (s.showTarget).fP = s.fP := rfl
@[simp] theorem State.showTarget_ir (s : State) : (s.showTarget).ir = s.ir := rfl
@[simp] theorem State.showTarget_tmpA (s : State) : (s.showTarget).tmpA = s.tmpA := rfl
@[simp] theorem State.showTarget_tmpB (s : State) : (s.showTarget).tmpB = s.tmpB := rfl
@[simp] theorem State.showTarget_stopped (s : State) : (s.showTarget).stopped = s.stopped := rfl
@[simp] theorem State.showTarget_tstate (s : State) : (s.showTarget).tstate = s.tstate := rfl
@[simp] theorem State.showTarget_cycle (s : State) : (s.showTarget).cycle = s.cycle := rfl
@[simp] theorem State.showTarget_mem (s : State) : (s.showTarget).mem = s.mem := rfl
@[simp] theorem State.showTarget_memMap (s : State) : (s.showTarget).memMap = s.memMap := rfl
@[simp] theorem State.showTarget_interrupts (s : State) : (s.showTarget).interrupts = s.interrupts := rfl
@[simp] theorem State.showTarget_offersDrawn (s : State) : (s.showTarget).offersDrawn = s.offersDrawn := rfl
@[simp] theorem State.showTarget_inputs (s : State) : (s.showTarget).inputs = s.inputs := rfl
@[simp] theorem State.showTarget_draws (s : State) : (s.showTarget).draws = s.draws := rfl
@[simp] theorem State.showTarget_events (s : State) : (s.showTarget).events = s.events := rfl
@[simp] theorem State.showTarget_testBus (s : State) : (s.showTarget).testBus = ⟨.three, .T5, s.tmpB⟩ :: ⟨.three, .T4, s.tmpA⟩ :: s.testBus := rfl
@[simp] theorem State.showTarget_states (s : State) : (s.showTarget).states = s.states := rfl
@[simp] theorem State.showTarget_reg (s : State) (q : Reg) : (s.showTarget).reg q = s.reg q := by
  cases q <;> rfl
@[simp] theorem State.showTarget_mAddr (s : State) : (s.showTarget).mAddr = s.mAddr := rfl
@[simp] theorem State.showTarget_cond (s : State) (cc : Cond) : (s.showTarget).cond cc = s.cond cc := by
  cases cc <;> rfl
@[simp] theorem State.showTarget_flagNibble (s : State) : (s.showTarget).flagNibble = s.flagNibble := rfl
@[simp] theorem State.showTarget_pc (s : State) : (s.showTarget).pc = s.pc := rfl
@[simp] theorem State.showTarget_kindAt (s : State) (x : Addr) : (s.showTarget).kindAt x = s.kindAt x := rfl

/-! ## `regToB` -/
@[simp] theorem State.regToB_rA (s : State) (r : Reg) : (s.regToB r).rA = s.rA := rfl
@[simp] theorem State.regToB_rB (s : State) (r : Reg) : (s.regToB r).rB = s.rB := rfl
@[simp] theorem State.regToB_rC (s : State) (r : Reg) : (s.regToB r).rC = s.rC := rfl
@[simp] theorem State.regToB_rD (s : State) (r : Reg) : (s.regToB r).rD = s.rD := rfl
@[simp] theorem State.regToB_rE (s : State) (r : Reg) : (s.regToB r).rE = s.rE := rfl
@[simp] theorem State.regToB_rH (s : State) (r : Reg) : (s.regToB r).rH = s.rH := rfl
@[simp] theorem State.regToB_rL (s : State) (r : Reg) : (s.regToB r).rL = s.rL := rfl
@[simp] theorem State.regToB_stk (s : State) (r : Reg) : (s.regToB r).stk = s.stk := rfl
@[simp] theorem State.regToB_sp (s : State) (r : Reg) : (s.regToB r).sp = s.sp := rfl
@[simp] theorem State.regToB_fC (s : State) (r : Reg) : (s.regToB r).fC = s.fC := rfl
@[simp] theorem State.regToB_fZ (s : State) (r : Reg) : (s.regToB r).fZ = s.fZ := rfl
@[simp] theorem State.regToB_fS (s : State) (r : Reg) : (s.regToB r).fS = s.fS := rfl
@[simp] theorem State.regToB_fP (s : State) (r : Reg) : (s.regToB r).fP = s.fP := rfl
@[simp] theorem State.regToB_ir (s : State) (r : Reg) : (s.regToB r).ir = s.ir := rfl
@[simp] theorem State.regToB_tmpA (s : State) (r : Reg) : (s.regToB r).tmpA = s.tmpA := rfl
@[simp] theorem State.regToB_tmpB (s : State) (r : Reg) : (s.regToB r).tmpB = s.reg r := rfl
@[simp] theorem State.regToB_stopped (s : State) (r : Reg) : (s.regToB r).stopped = s.stopped := rfl
@[simp] theorem State.regToB_tstate (s : State) (r : Reg) : (s.regToB r).tstate = s.tstate := rfl
@[simp] theorem State.regToB_cycle (s : State) (r : Reg) : (s.regToB r).cycle = s.cycle := rfl
@[simp] theorem State.regToB_mem (s : State) (r : Reg) : (s.regToB r).mem = s.mem := rfl
@[simp] theorem State.regToB_memMap (s : State) (r : Reg) : (s.regToB r).memMap = s.memMap := rfl
@[simp] theorem State.regToB_interrupts (s : State) (r : Reg) : (s.regToB r).interrupts = s.interrupts := rfl
@[simp] theorem State.regToB_offersDrawn (s : State) (r : Reg) : (s.regToB r).offersDrawn = s.offersDrawn := rfl
@[simp] theorem State.regToB_inputs (s : State) (r : Reg) : (s.regToB r).inputs = s.inputs := rfl
@[simp] theorem State.regToB_draws (s : State) (r : Reg) : (s.regToB r).draws = s.draws := rfl
@[simp] theorem State.regToB_events (s : State) (r : Reg) : (s.regToB r).events = s.events := rfl
@[simp] theorem State.regToB_testBus (s : State) (r : Reg) : (s.regToB r).testBus = ⟨.one, .T4, s.reg r⟩ :: s.testBus := rfl
@[simp] theorem State.regToB_states (s : State) (r : Reg) : (s.regToB r).states = s.states := rfl
@[simp] theorem State.regToB_reg (s : State) (r : Reg) (q : Reg) : (s.regToB r).reg q = s.reg q := by
  cases q <;> rfl
@[simp] theorem State.regToB_mAddr (s : State) (r : Reg) : (s.regToB r).mAddr = s.mAddr := rfl
@[simp] theorem State.regToB_cond (s : State) (r : Reg) (cc : Cond) : (s.regToB r).cond cc = s.cond cc := by
  cases cc <;> rfl
@[simp] theorem State.regToB_flagNibble (s : State) (r : Reg) : (s.regToB r).flagNibble = s.flagNibble := rfl
@[simp] theorem State.regToB_pc (s : State) (r : Reg) : (s.regToB r).pc = s.pc := rfl
@[simp] theorem State.regToB_kindAt (s : State) (r : Reg) (x : Addr) : (s.regToB r).kindAt x = s.kindAt x := rfl

/-! ## `call` -/
@[simp] theorem State.call_rA (s : State) (a : Addr) : (s.call a).rA = s.rA := rfl
@[simp] theorem State.call_rB (s : State) (a : Addr) : (s.call a).rB = s.rB := rfl
@[simp] theorem State.call_rC (s : State) (a : Addr) : (s.call a).rC = s.rC := rfl
@[simp] theorem State.call_rD (s : State) (a : Addr) : (s.call a).rD = s.rD := rfl
@[simp] theorem State.call_rE (s : State) (a : Addr) : (s.call a).rE = s.rE := rfl
@[simp] theorem State.call_rH (s : State) (a : Addr) : (s.call a).rH = s.rH := rfl
@[simp] theorem State.call_rL (s : State) (a : Addr) : (s.call a).rL = s.rL := rfl
@[simp] theorem State.call_stk (s : State) (a : Addr) : (s.call a).stk = s.stk.set (s.sp + 1).val a (s.sp + 1).isLt := rfl
@[simp] theorem State.call_sp (s : State) (a : Addr) : (s.call a).sp = s.sp + 1 := rfl
@[simp] theorem State.call_fC (s : State) (a : Addr) : (s.call a).fC = s.fC := rfl
@[simp] theorem State.call_fZ (s : State) (a : Addr) : (s.call a).fZ = s.fZ := rfl
@[simp] theorem State.call_fS (s : State) (a : Addr) : (s.call a).fS = s.fS := rfl
@[simp] theorem State.call_fP (s : State) (a : Addr) : (s.call a).fP = s.fP := rfl
@[simp] theorem State.call_ir (s : State) (a : Addr) : (s.call a).ir = s.ir := rfl
@[simp] theorem State.call_tmpA (s : State) (a : Addr) : (s.call a).tmpA = s.tmpA := rfl
@[simp] theorem State.call_tmpB (s : State) (a : Addr) : (s.call a).tmpB = s.tmpB := rfl
@[simp] theorem State.call_stopped (s : State) (a : Addr) : (s.call a).stopped = s.stopped := rfl
@[simp] theorem State.call_tstate (s : State) (a : Addr) : (s.call a).tstate = s.tstate := rfl
@[simp] theorem State.call_cycle (s : State) (a : Addr) : (s.call a).cycle = s.cycle := rfl
@[simp] theorem State.call_mem (s : State) (a : Addr) : (s.call a).mem = s.mem := rfl
@[simp] theorem State.call_memMap (s : State) (a : Addr) : (s.call a).memMap = s.memMap := rfl
@[simp] theorem State.call_interrupts (s : State) (a : Addr) : (s.call a).interrupts = s.interrupts := rfl
@[simp] theorem State.call_offersDrawn (s : State) (a : Addr) : (s.call a).offersDrawn = s.offersDrawn := rfl
@[simp] theorem State.call_inputs (s : State) (a : Addr) : (s.call a).inputs = s.inputs := rfl
@[simp] theorem State.call_draws (s : State) (a : Addr) : (s.call a).draws = s.draws := rfl
@[simp] theorem State.call_events (s : State) (a : Addr) : (s.call a).events = s.events := rfl
@[simp] theorem State.call_testBus (s : State) (a : Addr) : (s.call a).testBus = s.testBus := rfl
@[simp] theorem State.call_states (s : State) (a : Addr) : (s.call a).states = s.states := rfl
@[simp] theorem State.call_reg (s : State) (a : Addr) (q : Reg) : (s.call a).reg q = s.reg q := by
  cases q <;> rfl
@[simp] theorem State.call_mAddr (s : State) (a : Addr) : (s.call a).mAddr = s.mAddr := rfl
@[simp] theorem State.call_cond (s : State) (a : Addr) (cc : Cond) : (s.call a).cond cc = s.cond cc := by
  cases cc <;> rfl
@[simp] theorem State.call_flagNibble (s : State) (a : Addr) : (s.call a).flagNibble = s.flagNibble := rfl
@[simp] theorem State.call_kindAt (s : State) (a : Addr) (x : Addr) : (s.call a).kindAt x = s.kindAt x := rfl

/-! ## `push` -/
@[simp] theorem State.push_rA (s : State) : (s.push).rA = s.rA := rfl
@[simp] theorem State.push_rB (s : State) : (s.push).rB = s.rB := rfl
@[simp] theorem State.push_rC (s : State) : (s.push).rC = s.rC := rfl
@[simp] theorem State.push_rD (s : State) : (s.push).rD = s.rD := rfl
@[simp] theorem State.push_rE (s : State) : (s.push).rE = s.rE := rfl
@[simp] theorem State.push_rH (s : State) : (s.push).rH = s.rH := rfl
@[simp] theorem State.push_rL (s : State) : (s.push).rL = s.rL := rfl
@[simp] theorem State.push_stk (s : State) : (s.push).stk = s.stk := rfl
@[simp] theorem State.push_sp (s : State) : (s.push).sp = s.sp + 1 := rfl
@[simp] theorem State.push_fC (s : State) : (s.push).fC = s.fC := rfl
@[simp] theorem State.push_fZ (s : State) : (s.push).fZ = s.fZ := rfl
@[simp] theorem State.push_fS (s : State) : (s.push).fS = s.fS := rfl
@[simp] theorem State.push_fP (s : State) : (s.push).fP = s.fP := rfl
@[simp] theorem State.push_ir (s : State) : (s.push).ir = s.ir := rfl
@[simp] theorem State.push_tmpA (s : State) : (s.push).tmpA = s.tmpA := rfl
@[simp] theorem State.push_tmpB (s : State) : (s.push).tmpB = s.tmpB := rfl
@[simp] theorem State.push_stopped (s : State) : (s.push).stopped = s.stopped := rfl
@[simp] theorem State.push_tstate (s : State) : (s.push).tstate = s.tstate := rfl
@[simp] theorem State.push_cycle (s : State) : (s.push).cycle = s.cycle := rfl
@[simp] theorem State.push_mem (s : State) : (s.push).mem = s.mem := rfl
@[simp] theorem State.push_memMap (s : State) : (s.push).memMap = s.memMap := rfl
@[simp] theorem State.push_interrupts (s : State) : (s.push).interrupts = s.interrupts := rfl
@[simp] theorem State.push_offersDrawn (s : State) : (s.push).offersDrawn = s.offersDrawn := rfl
@[simp] theorem State.push_inputs (s : State) : (s.push).inputs = s.inputs := rfl
@[simp] theorem State.push_draws (s : State) : (s.push).draws = s.draws := rfl
@[simp] theorem State.push_events (s : State) : (s.push).events = s.events := rfl
@[simp] theorem State.push_testBus (s : State) : (s.push).testBus = s.testBus := rfl
@[simp] theorem State.push_states (s : State) : (s.push).states = s.states := rfl
@[simp] theorem State.push_reg (s : State) (q : Reg) : (s.push).reg q = s.reg q := by
  cases q <;> rfl
@[simp] theorem State.push_mAddr (s : State) : (s.push).mAddr = s.mAddr := rfl
@[simp] theorem State.push_cond (s : State) (cc : Cond) : (s.push).cond cc = s.cond cc := by
  cases cc <;> rfl
@[simp] theorem State.push_flagNibble (s : State) : (s.push).flagNibble = s.flagNibble := rfl
@[simp] theorem State.push_kindAt (s : State) (x : Addr) : (s.push).kindAt x = s.kindAt x := rfl

/-! ## `pop` -/
@[simp] theorem State.pop_rA (s : State) : (s.pop).rA = s.rA := rfl
@[simp] theorem State.pop_rB (s : State) : (s.pop).rB = s.rB := rfl
@[simp] theorem State.pop_rC (s : State) : (s.pop).rC = s.rC := rfl
@[simp] theorem State.pop_rD (s : State) : (s.pop).rD = s.rD := rfl
@[simp] theorem State.pop_rE (s : State) : (s.pop).rE = s.rE := rfl
@[simp] theorem State.pop_rH (s : State) : (s.pop).rH = s.rH := rfl
@[simp] theorem State.pop_rL (s : State) : (s.pop).rL = s.rL := rfl
@[simp] theorem State.pop_stk (s : State) : (s.pop).stk = s.stk := rfl
@[simp] theorem State.pop_sp (s : State) : (s.pop).sp = s.sp - 1 := rfl
@[simp] theorem State.pop_fC (s : State) : (s.pop).fC = s.fC := rfl
@[simp] theorem State.pop_fZ (s : State) : (s.pop).fZ = s.fZ := rfl
@[simp] theorem State.pop_fS (s : State) : (s.pop).fS = s.fS := rfl
@[simp] theorem State.pop_fP (s : State) : (s.pop).fP = s.fP := rfl
@[simp] theorem State.pop_ir (s : State) : (s.pop).ir = s.ir := rfl
@[simp] theorem State.pop_tmpA (s : State) : (s.pop).tmpA = s.tmpA := rfl
@[simp] theorem State.pop_tmpB (s : State) : (s.pop).tmpB = s.tmpB := rfl
@[simp] theorem State.pop_stopped (s : State) : (s.pop).stopped = s.stopped := rfl
@[simp] theorem State.pop_tstate (s : State) : (s.pop).tstate = s.tstate := rfl
@[simp] theorem State.pop_cycle (s : State) : (s.pop).cycle = s.cycle := rfl
@[simp] theorem State.pop_mem (s : State) : (s.pop).mem = s.mem := rfl
@[simp] theorem State.pop_memMap (s : State) : (s.pop).memMap = s.memMap := rfl
@[simp] theorem State.pop_interrupts (s : State) : (s.pop).interrupts = s.interrupts := rfl
@[simp] theorem State.pop_offersDrawn (s : State) : (s.pop).offersDrawn = s.offersDrawn := rfl
@[simp] theorem State.pop_inputs (s : State) : (s.pop).inputs = s.inputs := rfl
@[simp] theorem State.pop_draws (s : State) : (s.pop).draws = s.draws := rfl
@[simp] theorem State.pop_events (s : State) : (s.pop).events = s.events := rfl
@[simp] theorem State.pop_testBus (s : State) : (s.pop).testBus = s.testBus := rfl
@[simp] theorem State.pop_states (s : State) : (s.pop).states = s.states := rfl
@[simp] theorem State.pop_reg (s : State) (q : Reg) : (s.pop).reg q = s.reg q := by
  cases q <;> rfl
@[simp] theorem State.pop_mAddr (s : State) : (s.pop).mAddr = s.mAddr := rfl
@[simp] theorem State.pop_cond (s : State) (cc : Cond) : (s.pop).cond cc = s.cond cc := by
  cases cc <;> rfl
@[simp] theorem State.pop_flagNibble (s : State) : (s.pop).flagNibble = s.flagNibble := rfl
@[simp] theorem State.pop_kindAt (s : State) (x : Addr) : (s.pop).kindAt x = s.kindAt x := rfl

/-! ## `acceptInterrupt` -/
@[simp] theorem State.acceptInterrupt_rA (s : State) (op : Byte) : (s.acceptInterrupt op).rA = s.rA := rfl
@[simp] theorem State.acceptInterrupt_rB (s : State) (op : Byte) : (s.acceptInterrupt op).rB = s.rB := rfl
@[simp] theorem State.acceptInterrupt_rC (s : State) (op : Byte) : (s.acceptInterrupt op).rC = s.rC := rfl
@[simp] theorem State.acceptInterrupt_rD (s : State) (op : Byte) : (s.acceptInterrupt op).rD = s.rD := rfl
@[simp] theorem State.acceptInterrupt_rE (s : State) (op : Byte) : (s.acceptInterrupt op).rE = s.rE := rfl
@[simp] theorem State.acceptInterrupt_rH (s : State) (op : Byte) : (s.acceptInterrupt op).rH = s.rH := rfl
@[simp] theorem State.acceptInterrupt_rL (s : State) (op : Byte) : (s.acceptInterrupt op).rL = s.rL := rfl
@[simp] theorem State.acceptInterrupt_stk (s : State) (op : Byte) : (s.acceptInterrupt op).stk = s.stk := rfl
@[simp] theorem State.acceptInterrupt_sp (s : State) (op : Byte) : (s.acceptInterrupt op).sp = s.sp := rfl
@[simp] theorem State.acceptInterrupt_fC (s : State) (op : Byte) : (s.acceptInterrupt op).fC = s.fC := rfl
@[simp] theorem State.acceptInterrupt_fZ (s : State) (op : Byte) : (s.acceptInterrupt op).fZ = s.fZ := rfl
@[simp] theorem State.acceptInterrupt_fS (s : State) (op : Byte) : (s.acceptInterrupt op).fS = s.fS := rfl
@[simp] theorem State.acceptInterrupt_fP (s : State) (op : Byte) : (s.acceptInterrupt op).fP = s.fP := rfl
@[simp] theorem State.acceptInterrupt_ir (s : State) (op : Byte) : (s.acceptInterrupt op).ir = op := rfl
@[simp] theorem State.acceptInterrupt_tmpA (s : State) (op : Byte) : (s.acceptInterrupt op).tmpA = s.tmpA := rfl
@[simp] theorem State.acceptInterrupt_tmpB (s : State) (op : Byte) : (s.acceptInterrupt op).tmpB = op := rfl
@[simp] theorem State.acceptInterrupt_stopped (s : State) (op : Byte) : (s.acceptInterrupt op).stopped = false := rfl
@[simp] theorem State.acceptInterrupt_tstate (s : State) (op : Byte) : (s.acceptInterrupt op).tstate = .T1 := rfl
@[simp] theorem State.acceptInterrupt_cycle (s : State) (op : Byte) : (s.acceptInterrupt op).cycle = .one := rfl
@[simp] theorem State.acceptInterrupt_mem (s : State) (op : Byte) : (s.acceptInterrupt op).mem = s.mem := rfl
@[simp] theorem State.acceptInterrupt_memMap (s : State) (op : Byte) : (s.acceptInterrupt op).memMap = s.memMap := rfl
@[simp] theorem State.acceptInterrupt_interrupts (s : State) (op : Byte) : (s.acceptInterrupt op).interrupts = s.interrupts := rfl
@[simp] theorem State.acceptInterrupt_offersDrawn (s : State) (op : Byte) : (s.acceptInterrupt op).offersDrawn = s.offersDrawn := rfl
@[simp] theorem State.acceptInterrupt_inputs (s : State) (op : Byte) : (s.acceptInterrupt op).inputs = s.inputs := rfl
@[simp] theorem State.acceptInterrupt_draws (s : State) (op : Byte) : (s.acceptInterrupt op).draws = s.draws := rfl
@[simp] theorem State.acceptInterrupt_events (s : State) (op : Byte) : (s.acceptInterrupt op).events = s.events := rfl
@[simp] theorem State.acceptInterrupt_testBus (s : State) (op : Byte) : (s.acceptInterrupt op).testBus = s.testBus := rfl
@[simp] theorem State.acceptInterrupt_states (s : State) (op : Byte) : (s.acceptInterrupt op).states = s.states := rfl
@[simp] theorem State.acceptInterrupt_reg (s : State) (op : Byte) (q : Reg) : (s.acceptInterrupt op).reg q = s.reg q := by
  cases q <;> rfl
@[simp] theorem State.acceptInterrupt_mAddr (s : State) (op : Byte) : (s.acceptInterrupt op).mAddr = s.mAddr := rfl
@[simp] theorem State.acceptInterrupt_cond (s : State) (op : Byte) (cc : Cond) : (s.acceptInterrupt op).cond cc = s.cond cc := by
  cases cc <;> rfl
@[simp] theorem State.acceptInterrupt_flagNibble (s : State) (op : Byte) : (s.acceptInterrupt op).flagNibble = s.flagNibble := rfl
@[simp] theorem State.acceptInterrupt_pc (s : State) (op : Byte) : (s.acceptInterrupt op).pc = s.pc := rfl
@[simp] theorem State.acceptInterrupt_kindAt (s : State) (op : Byte) (x : Addr) : (s.acceptInterrupt op).kindAt x = s.kindAt x := rfl

/-! ## `complete` -/
@[simp] theorem State.complete_rA (s : State) (n : Nat) : (s.complete n).rA = s.rA := rfl
@[simp] theorem State.complete_rB (s : State) (n : Nat) : (s.complete n).rB = s.rB := rfl
@[simp] theorem State.complete_rC (s : State) (n : Nat) : (s.complete n).rC = s.rC := rfl
@[simp] theorem State.complete_rD (s : State) (n : Nat) : (s.complete n).rD = s.rD := rfl
@[simp] theorem State.complete_rE (s : State) (n : Nat) : (s.complete n).rE = s.rE := rfl
@[simp] theorem State.complete_rH (s : State) (n : Nat) : (s.complete n).rH = s.rH := rfl
@[simp] theorem State.complete_rL (s : State) (n : Nat) : (s.complete n).rL = s.rL := rfl
@[simp] theorem State.complete_stk (s : State) (n : Nat) : (s.complete n).stk = s.stk := rfl
@[simp] theorem State.complete_sp (s : State) (n : Nat) : (s.complete n).sp = s.sp := rfl
@[simp] theorem State.complete_fC (s : State) (n : Nat) : (s.complete n).fC = s.fC := rfl
@[simp] theorem State.complete_fZ (s : State) (n : Nat) : (s.complete n).fZ = s.fZ := rfl
@[simp] theorem State.complete_fS (s : State) (n : Nat) : (s.complete n).fS = s.fS := rfl
@[simp] theorem State.complete_fP (s : State) (n : Nat) : (s.complete n).fP = s.fP := rfl
@[simp] theorem State.complete_ir (s : State) (n : Nat) : (s.complete n).ir = s.ir := rfl
@[simp] theorem State.complete_tmpA (s : State) (n : Nat) : (s.complete n).tmpA = s.tmpA := rfl
@[simp] theorem State.complete_tmpB (s : State) (n : Nat) : (s.complete n).tmpB = s.tmpB := rfl
@[simp] theorem State.complete_stopped (s : State) (n : Nat) : (s.complete n).stopped = s.stopped := rfl
@[simp] theorem State.complete_tstate (s : State) (n : Nat) : (s.complete n).tstate = .T1 := rfl
@[simp] theorem State.complete_cycle (s : State) (n : Nat) : (s.complete n).cycle = .one := rfl
@[simp] theorem State.complete_mem (s : State) (n : Nat) : (s.complete n).mem = s.mem := rfl
@[simp] theorem State.complete_memMap (s : State) (n : Nat) : (s.complete n).memMap = s.memMap := rfl
@[simp] theorem State.complete_interrupts (s : State) (n : Nat) : (s.complete n).interrupts = s.interrupts := rfl
@[simp] theorem State.complete_offersDrawn (s : State) (n : Nat) : (s.complete n).offersDrawn = s.offersDrawn := rfl
@[simp] theorem State.complete_inputs (s : State) (n : Nat) : (s.complete n).inputs = s.inputs := rfl
@[simp] theorem State.complete_draws (s : State) (n : Nat) : (s.complete n).draws = s.draws := rfl
@[simp] theorem State.complete_events (s : State) (n : Nat) : (s.complete n).events = s.events := rfl
@[simp] theorem State.complete_testBus (s : State) (n : Nat) : (s.complete n).testBus = s.testBus := rfl
@[simp] theorem State.complete_states (s : State) (n : Nat) : (s.complete n).states = s.states + n := rfl
@[simp] theorem State.complete_reg (s : State) (n : Nat) (q : Reg) : (s.complete n).reg q = s.reg q := by
  cases q <;> rfl
@[simp] theorem State.complete_mAddr (s : State) (n : Nat) : (s.complete n).mAddr = s.mAddr := rfl
@[simp] theorem State.complete_cond (s : State) (n : Nat) (cc : Cond) : (s.complete n).cond cc = s.cond cc := by
  cases cc <;> rfl
@[simp] theorem State.complete_flagNibble (s : State) (n : Nat) : (s.complete n).flagNibble = s.flagNibble := rfl
@[simp] theorem State.complete_pc (s : State) (n : Nat) : (s.complete n).pc = s.pc := rfl
@[simp] theorem State.complete_kindAt (s : State) (n : Nat) (x : Addr) : (s.complete n).kindAt x = s.kindAt x := rfl

/-! ## `halt` -/
@[simp] theorem State.halt_rA (s : State) : (s.halt).rA = s.rA := rfl
@[simp] theorem State.halt_rB (s : State) : (s.halt).rB = s.rB := rfl
@[simp] theorem State.halt_rC (s : State) : (s.halt).rC = s.rC := rfl
@[simp] theorem State.halt_rD (s : State) : (s.halt).rD = s.rD := rfl
@[simp] theorem State.halt_rE (s : State) : (s.halt).rE = s.rE := rfl
@[simp] theorem State.halt_rH (s : State) : (s.halt).rH = s.rH := rfl
@[simp] theorem State.halt_rL (s : State) : (s.halt).rL = s.rL := rfl
@[simp] theorem State.halt_stk (s : State) : (s.halt).stk = s.stk := rfl
@[simp] theorem State.halt_sp (s : State) : (s.halt).sp = s.sp := rfl
@[simp] theorem State.halt_fC (s : State) : (s.halt).fC = s.fC := rfl
@[simp] theorem State.halt_fZ (s : State) : (s.halt).fZ = s.fZ := rfl
@[simp] theorem State.halt_fS (s : State) : (s.halt).fS = s.fS := rfl
@[simp] theorem State.halt_fP (s : State) : (s.halt).fP = s.fP := rfl
@[simp] theorem State.halt_ir (s : State) : (s.halt).ir = s.ir := rfl
@[simp] theorem State.halt_tmpA (s : State) : (s.halt).tmpA = s.tmpA := rfl
@[simp] theorem State.halt_tmpB (s : State) : (s.halt).tmpB = s.tmpB := rfl
@[simp] theorem State.halt_stopped (s : State) : (s.halt).stopped = true := rfl
@[simp] theorem State.halt_tstate (s : State) : (s.halt).tstate = .T3 := rfl
@[simp] theorem State.halt_cycle (s : State) : (s.halt).cycle = .one := rfl
@[simp] theorem State.halt_mem (s : State) : (s.halt).mem = s.mem := rfl
@[simp] theorem State.halt_memMap (s : State) : (s.halt).memMap = s.memMap := rfl
@[simp] theorem State.halt_interrupts (s : State) : (s.halt).interrupts = s.interrupts := rfl
@[simp] theorem State.halt_offersDrawn (s : State) : (s.halt).offersDrawn = s.offersDrawn := rfl
@[simp] theorem State.halt_inputs (s : State) : (s.halt).inputs = s.inputs := rfl
@[simp] theorem State.halt_draws (s : State) : (s.halt).draws = s.draws := rfl
@[simp] theorem State.halt_events (s : State) : (s.halt).events = s.events := rfl
@[simp] theorem State.halt_testBus (s : State) : (s.halt).testBus = s.testBus := rfl
@[simp] theorem State.halt_states (s : State) : (s.halt).states = s.states + 4 := rfl
@[simp] theorem State.halt_reg (s : State) (q : Reg) : (s.halt).reg q = s.reg q := by
  cases q <;> rfl
@[simp] theorem State.halt_mAddr (s : State) : (s.halt).mAddr = s.mAddr := rfl
@[simp] theorem State.halt_cond (s : State) (cc : Cond) : (s.halt).cond cc = s.cond cc := by
  cases cc <;> rfl
@[simp] theorem State.halt_flagNibble (s : State) : (s.halt).flagNibble = s.flagNibble := rfl
@[simp] theorem State.halt_pc (s : State) : (s.halt).pc = s.pc := rfl
@[simp] theorem State.halt_kindAt (s : State) (x : Addr) : (s.halt).kindAt x = s.kindAt x := rfl

/-! ## `offering` -/
@[simp] theorem State.offering_rA (s : State) (o : Option Byte) : (s.offering o).rA = s.rA := rfl
@[simp] theorem State.offering_rB (s : State) (o : Option Byte) : (s.offering o).rB = s.rB := rfl
@[simp] theorem State.offering_rC (s : State) (o : Option Byte) : (s.offering o).rC = s.rC := rfl
@[simp] theorem State.offering_rD (s : State) (o : Option Byte) : (s.offering o).rD = s.rD := rfl
@[simp] theorem State.offering_rE (s : State) (o : Option Byte) : (s.offering o).rE = s.rE := rfl
@[simp] theorem State.offering_rH (s : State) (o : Option Byte) : (s.offering o).rH = s.rH := rfl
@[simp] theorem State.offering_rL (s : State) (o : Option Byte) : (s.offering o).rL = s.rL := rfl
@[simp] theorem State.offering_stk (s : State) (o : Option Byte) : (s.offering o).stk = s.stk := rfl
@[simp] theorem State.offering_sp (s : State) (o : Option Byte) : (s.offering o).sp = s.sp := rfl
@[simp] theorem State.offering_fC (s : State) (o : Option Byte) : (s.offering o).fC = s.fC := rfl
@[simp] theorem State.offering_fZ (s : State) (o : Option Byte) : (s.offering o).fZ = s.fZ := rfl
@[simp] theorem State.offering_fS (s : State) (o : Option Byte) : (s.offering o).fS = s.fS := rfl
@[simp] theorem State.offering_fP (s : State) (o : Option Byte) : (s.offering o).fP = s.fP := rfl
@[simp] theorem State.offering_ir (s : State) (o : Option Byte) : (s.offering o).ir = s.ir := rfl
@[simp] theorem State.offering_tmpA (s : State) (o : Option Byte) : (s.offering o).tmpA = s.tmpA := rfl
@[simp] theorem State.offering_tmpB (s : State) (o : Option Byte) : (s.offering o).tmpB = s.tmpB := rfl
@[simp] theorem State.offering_stopped (s : State) (o : Option Byte) : (s.offering o).stopped = s.stopped := rfl
@[simp] theorem State.offering_tstate (s : State) (o : Option Byte) : (s.offering o).tstate = s.tstate := rfl
@[simp] theorem State.offering_cycle (s : State) (o : Option Byte) : (s.offering o).cycle = s.cycle := rfl
@[simp] theorem State.offering_mem (s : State) (o : Option Byte) : (s.offering o).mem = s.mem := rfl
@[simp] theorem State.offering_memMap (s : State) (o : Option Byte) : (s.offering o).memMap = s.memMap := rfl
@[simp] theorem State.offering_interrupts (s : State) (o : Option Byte) : (s.offering o).interrupts = o :: s.interrupts := rfl
@[simp] theorem State.offering_offersDrawn (s : State) (o : Option Byte) : (s.offering o).offersDrawn = s.offersDrawn := rfl
@[simp] theorem State.offering_inputs (s : State) (o : Option Byte) : (s.offering o).inputs = s.inputs := rfl
@[simp] theorem State.offering_draws (s : State) (o : Option Byte) : (s.offering o).draws = s.draws := rfl
@[simp] theorem State.offering_events (s : State) (o : Option Byte) : (s.offering o).events = s.events := rfl
@[simp] theorem State.offering_testBus (s : State) (o : Option Byte) : (s.offering o).testBus = s.testBus := rfl
@[simp] theorem State.offering_states (s : State) (o : Option Byte) : (s.offering o).states = s.states := rfl
@[simp] theorem State.offering_reg (s : State) (o : Option Byte) (q : Reg) : (s.offering o).reg q = s.reg q := by
  cases q <;> rfl
@[simp] theorem State.offering_mAddr (s : State) (o : Option Byte) : (s.offering o).mAddr = s.mAddr := rfl
@[simp] theorem State.offering_cond (s : State) (o : Option Byte) (cc : Cond) : (s.offering o).cond cc = s.cond cc := by
  cases cc <;> rfl
@[simp] theorem State.offering_flagNibble (s : State) (o : Option Byte) : (s.offering o).flagNibble = s.flagNibble := rfl
@[simp] theorem State.offering_pc (s : State) (o : Option Byte) : (s.offering o).pc = s.pc := rfl
@[simp] theorem State.offering_kindAt (s : State) (o : Option Byte) (x : Addr) : (s.offering o).kindAt x = s.kindAt x := rfl

/-! ## `ioOut` -/
@[simp] theorem State.ioOut_rA (s : State) (port : Port) (v : Byte) : (s.ioOut port v).rA = s.rA := rfl
@[simp] theorem State.ioOut_rB (s : State) (port : Port) (v : Byte) : (s.ioOut port v).rB = s.rB := rfl
@[simp] theorem State.ioOut_rC (s : State) (port : Port) (v : Byte) : (s.ioOut port v).rC = s.rC := rfl
@[simp] theorem State.ioOut_rD (s : State) (port : Port) (v : Byte) : (s.ioOut port v).rD = s.rD := rfl
@[simp] theorem State.ioOut_rE (s : State) (port : Port) (v : Byte) : (s.ioOut port v).rE = s.rE := rfl
@[simp] theorem State.ioOut_rH (s : State) (port : Port) (v : Byte) : (s.ioOut port v).rH = s.rH := rfl
@[simp] theorem State.ioOut_rL (s : State) (port : Port) (v : Byte) : (s.ioOut port v).rL = s.rL := rfl
@[simp] theorem State.ioOut_stk (s : State) (port : Port) (v : Byte) : (s.ioOut port v).stk = s.stk := rfl
@[simp] theorem State.ioOut_sp (s : State) (port : Port) (v : Byte) : (s.ioOut port v).sp = s.sp := rfl
@[simp] theorem State.ioOut_fC (s : State) (port : Port) (v : Byte) : (s.ioOut port v).fC = s.fC := rfl
@[simp] theorem State.ioOut_fZ (s : State) (port : Port) (v : Byte) : (s.ioOut port v).fZ = s.fZ := rfl
@[simp] theorem State.ioOut_fS (s : State) (port : Port) (v : Byte) : (s.ioOut port v).fS = s.fS := rfl
@[simp] theorem State.ioOut_fP (s : State) (port : Port) (v : Byte) : (s.ioOut port v).fP = s.fP := rfl
@[simp] theorem State.ioOut_ir (s : State) (port : Port) (v : Byte) : (s.ioOut port v).ir = s.ir := rfl
@[simp] theorem State.ioOut_tmpA (s : State) (port : Port) (v : Byte) : (s.ioOut port v).tmpA = s.tmpA := rfl
@[simp] theorem State.ioOut_tmpB (s : State) (port : Port) (v : Byte) : (s.ioOut port v).tmpB = s.tmpB := rfl
@[simp] theorem State.ioOut_stopped (s : State) (port : Port) (v : Byte) : (s.ioOut port v).stopped = s.stopped := rfl
@[simp] theorem State.ioOut_tstate (s : State) (port : Port) (v : Byte) : (s.ioOut port v).tstate = s.tstate := rfl
@[simp] theorem State.ioOut_cycle (s : State) (port : Port) (v : Byte) : (s.ioOut port v).cycle = s.cycle := rfl
@[simp] theorem State.ioOut_mem (s : State) (port : Port) (v : Byte) : (s.ioOut port v).mem = s.mem := rfl
@[simp] theorem State.ioOut_memMap (s : State) (port : Port) (v : Byte) : (s.ioOut port v).memMap = s.memMap := rfl
@[simp] theorem State.ioOut_interrupts (s : State) (port : Port) (v : Byte) : (s.ioOut port v).interrupts = s.interrupts := rfl
@[simp] theorem State.ioOut_offersDrawn (s : State) (port : Port) (v : Byte) : (s.ioOut port v).offersDrawn = s.offersDrawn := rfl
@[simp] theorem State.ioOut_inputs (s : State) (port : Port) (v : Byte) : (s.ioOut port v).inputs = s.inputs := rfl
@[simp] theorem State.ioOut_draws (s : State) (port : Port) (v : Byte) : (s.ioOut port v).draws = s.draws := rfl
@[simp] theorem State.ioOut_events (s : State) (port : Port) (v : Byte) : (s.ioOut port v).events = .output port v :: s.events := rfl
@[simp] theorem State.ioOut_testBus (s : State) (port : Port) (v : Byte) : (s.ioOut port v).testBus = s.testBus := rfl
@[simp] theorem State.ioOut_states (s : State) (port : Port) (v : Byte) : (s.ioOut port v).states = s.states := rfl
@[simp] theorem State.ioOut_reg (s : State) (port : Port) (v : Byte) (q : Reg) : (s.ioOut port v).reg q = s.reg q := by
  cases q <;> rfl
@[simp] theorem State.ioOut_mAddr (s : State) (port : Port) (v : Byte) : (s.ioOut port v).mAddr = s.mAddr := rfl
@[simp] theorem State.ioOut_cond (s : State) (port : Port) (v : Byte) (cc : Cond) : (s.ioOut port v).cond cc = s.cond cc := by
  cases cc <;> rfl
@[simp] theorem State.ioOut_flagNibble (s : State) (port : Port) (v : Byte) : (s.ioOut port v).flagNibble = s.flagNibble := rfl
@[simp] theorem State.ioOut_pc (s : State) (port : Port) (v : Byte) : (s.ioOut port v).pc = s.pc := rfl
@[simp] theorem State.ioOut_kindAt (s : State) (port : Port) (v : Byte) (x : Addr) : (s.ioOut port v).kindAt x = s.kindAt x := rfl

/-! ## `setReg` -/
@[simp] theorem State.setReg_stk (s : State) (d : Reg) (v : Byte) : (s.setReg d v).stk = s.stk := by
  cases d <;> rfl
@[simp] theorem State.setReg_sp (s : State) (d : Reg) (v : Byte) : (s.setReg d v).sp = s.sp := by
  cases d <;> rfl
@[simp] theorem State.setReg_fC (s : State) (d : Reg) (v : Byte) : (s.setReg d v).fC = s.fC := by
  cases d <;> rfl
@[simp] theorem State.setReg_fZ (s : State) (d : Reg) (v : Byte) : (s.setReg d v).fZ = s.fZ := by
  cases d <;> rfl
@[simp] theorem State.setReg_fS (s : State) (d : Reg) (v : Byte) : (s.setReg d v).fS = s.fS := by
  cases d <;> rfl
@[simp] theorem State.setReg_fP (s : State) (d : Reg) (v : Byte) : (s.setReg d v).fP = s.fP := by
  cases d <;> rfl
@[simp] theorem State.setReg_ir (s : State) (d : Reg) (v : Byte) : (s.setReg d v).ir = s.ir := by
  cases d <;> rfl
@[simp] theorem State.setReg_tmpA (s : State) (d : Reg) (v : Byte) : (s.setReg d v).tmpA = s.tmpA := by
  cases d <;> rfl
@[simp] theorem State.setReg_tmpB (s : State) (d : Reg) (v : Byte) : (s.setReg d v).tmpB = s.tmpB := by
  cases d <;> rfl
@[simp] theorem State.setReg_stopped (s : State) (d : Reg) (v : Byte) : (s.setReg d v).stopped = s.stopped := by
  cases d <;> rfl
@[simp] theorem State.setReg_tstate (s : State) (d : Reg) (v : Byte) : (s.setReg d v).tstate = s.tstate := by
  cases d <;> rfl
@[simp] theorem State.setReg_cycle (s : State) (d : Reg) (v : Byte) : (s.setReg d v).cycle = s.cycle := by
  cases d <;> rfl
@[simp] theorem State.setReg_mem (s : State) (d : Reg) (v : Byte) : (s.setReg d v).mem = s.mem := by
  cases d <;> rfl
@[simp] theorem State.setReg_memMap (s : State) (d : Reg) (v : Byte) : (s.setReg d v).memMap = s.memMap := by
  cases d <;> rfl
@[simp] theorem State.setReg_interrupts (s : State) (d : Reg) (v : Byte) : (s.setReg d v).interrupts = s.interrupts := by
  cases d <;> rfl
@[simp] theorem State.setReg_offersDrawn (s : State) (d : Reg) (v : Byte) : (s.setReg d v).offersDrawn = s.offersDrawn := by
  cases d <;> rfl
@[simp] theorem State.setReg_inputs (s : State) (d : Reg) (v : Byte) : (s.setReg d v).inputs = s.inputs := by
  cases d <;> rfl
@[simp] theorem State.setReg_draws (s : State) (d : Reg) (v : Byte) : (s.setReg d v).draws = s.draws := by
  cases d <;> rfl
@[simp] theorem State.setReg_events (s : State) (d : Reg) (v : Byte) : (s.setReg d v).events = s.events := by
  cases d <;> rfl
@[simp] theorem State.setReg_testBus (s : State) (d : Reg) (v : Byte) : (s.setReg d v).testBus = s.testBus := by
  cases d <;> rfl
@[simp] theorem State.setReg_states (s : State) (d : Reg) (v : Byte) : (s.setReg d v).states = s.states := by
  cases d <;> rfl
@[simp] theorem State.setReg_cond (s : State) (d : Reg) (v : Byte) (c : Cond) : (s.setReg d v).cond c = s.cond c := by
  cases d <;> cases c <;> rfl

@[simp] theorem State.setReg_pc (s : State) (d : Reg) (v : Byte) : (s.setReg d v).pc = s.pc := by
  cases d <;> rfl

@[simp] theorem State.setReg_kindAt (s : State) (d : Reg) (v : Byte) (x : Addr) : (s.setReg d v).kindAt x = s.kindAt x := by
  cases d <;> rfl

/-- A register reads as written, and every other one as before. -/
@[simp] theorem State.setReg_reg (s : State) (d r : Reg) (v : Byte) :
    (s.setReg d v).reg r = if r = d then v else s.reg r := by
  cases d <;> cases r <;> rfl

/-- "REG. b TO DDD" is a transfer shown on the bus and a write of the register. -/
@[simp] theorem State.bToReg_eq (s : State) (c : Cycle) (d : Reg) :
    s.bToReg c d = (s.showBus c .T5 s.tmpB).setReg d s.tmpB := rfl

@[simp] theorem State.setReg_A_rA (s : State) (v : Byte) : (s.setReg .A v).rA = v := rfl

@[simp] theorem State.reg_A (s : State) : s.reg .A = s.rA := rfl
@[simp] theorem State.reg_B (s : State) : s.reg .B = s.rB := rfl
@[simp] theorem State.reg_C (s : State) : s.reg .C = s.rC := rfl
@[simp] theorem State.reg_D (s : State) : s.reg .D = s.rD := rfl
@[simp] theorem State.reg_E (s : State) : s.reg .E = s.rE := rfl
@[simp] theorem State.reg_H (s : State) : s.reg .H = s.rH := rfl
@[simp] theorem State.reg_L (s : State) : s.reg .L = s.rL := rfl

@[simp] theorem State.cond_C (s : State) : s.cond .C = s.fC := rfl
@[simp] theorem State.cond_Z (s : State) : s.cond .Z = s.fZ := rfl
@[simp] theorem State.cond_S (s : State) : s.cond .S = s.fS := rfl
@[simp] theorem State.cond_P (s : State) : s.cond .P = s.fP := rfl

/-! ## The program counter and the address stack -/

/-- PC reads as written. -/
@[simp] theorem State.setPc_pc (s : State) (a : Addr) : (s.setPc a).pc = a := by
  simp [State.pc]

/-- A stack entry other than the one SP names is left alone by a write of PC. -/
theorem State.setPc_entry (s : State) (a : Addr) (k : Fin 8) (h : k ≠ s.sp) : (s.setPc a).stk[k] = s.stk[k] := by
  have h' : s.sp.val ≠ k.val := fun e => h (Fin.ext e.symm)
  simp [h']

/-- A call keeps the old entry as the return address and makes the target PC. -/
theorem State.call_spec (s : State) (target : Addr) :
    (s.call target).sp = s.sp + 1 ∧ (s.call target).pc = target ∧
      ∀ k : Fin 8, k ≠ s.sp + 1 → (s.call target).stk[k] = s.stk[k] :=
  ⟨rfl, State.setPc_pc s.push target, fun k hk => State.setPc_entry s.push target k hk⟩

/-- What a return finds: the entry below. -/
theorem State.pop_pc (s : State) : s.pop.pc = s.stk[s.sp - 1] := rfl

end Sys2Proof.Machine
end

