-- ==== Sys2Proof/Laws/Ops.lean ====
section
/-!
SUPPORT. For each shared operation, once, everything it can do: what it answers, what it changes, and, field by field,
what it leaves alone. Proofs about instructions cite these and unfold no operation.
-/

namespace Sys2Proof.Machine

/-! ## `memRead` -/
@[simp] theorem State.memRead_rA (s : State) (k : ReadKind) (a : Addr) : (s.memRead k a).2.rA = s.rA := by
  cases h : s.kindAt a <;> simp [State.memRead, State.drawBus, h]
@[simp] theorem State.memRead_rB (s : State) (k : ReadKind) (a : Addr) : (s.memRead k a).2.rB = s.rB := by
  cases h : s.kindAt a <;> simp [State.memRead, State.drawBus, h]
@[simp] theorem State.memRead_rC (s : State) (k : ReadKind) (a : Addr) : (s.memRead k a).2.rC = s.rC := by
  cases h : s.kindAt a <;> simp [State.memRead, State.drawBus, h]
@[simp] theorem State.memRead_rD (s : State) (k : ReadKind) (a : Addr) : (s.memRead k a).2.rD = s.rD := by
  cases h : s.kindAt a <;> simp [State.memRead, State.drawBus, h]
@[simp] theorem State.memRead_rE (s : State) (k : ReadKind) (a : Addr) : (s.memRead k a).2.rE = s.rE := by
  cases h : s.kindAt a <;> simp [State.memRead, State.drawBus, h]
@[simp] theorem State.memRead_rH (s : State) (k : ReadKind) (a : Addr) : (s.memRead k a).2.rH = s.rH := by
  cases h : s.kindAt a <;> simp [State.memRead, State.drawBus, h]
@[simp] theorem State.memRead_rL (s : State) (k : ReadKind) (a : Addr) : (s.memRead k a).2.rL = s.rL := by
  cases h : s.kindAt a <;> simp [State.memRead, State.drawBus, h]
@[simp] theorem State.memRead_stk (s : State) (k : ReadKind) (a : Addr) : (s.memRead k a).2.stk = s.stk := by
  cases h : s.kindAt a <;> simp [State.memRead, State.drawBus, h]
@[simp] theorem State.memRead_sp (s : State) (k : ReadKind) (a : Addr) : (s.memRead k a).2.sp = s.sp := by
  cases h : s.kindAt a <;> simp [State.memRead, State.drawBus, h]
@[simp] theorem State.memRead_fC (s : State) (k : ReadKind) (a : Addr) : (s.memRead k a).2.fC = s.fC := by
  cases h : s.kindAt a <;> simp [State.memRead, State.drawBus, h]
@[simp] theorem State.memRead_fZ (s : State) (k : ReadKind) (a : Addr) : (s.memRead k a).2.fZ = s.fZ := by
  cases h : s.kindAt a <;> simp [State.memRead, State.drawBus, h]
@[simp] theorem State.memRead_fS (s : State) (k : ReadKind) (a : Addr) : (s.memRead k a).2.fS = s.fS := by
  cases h : s.kindAt a <;> simp [State.memRead, State.drawBus, h]
@[simp] theorem State.memRead_fP (s : State) (k : ReadKind) (a : Addr) : (s.memRead k a).2.fP = s.fP := by
  cases h : s.kindAt a <;> simp [State.memRead, State.drawBus, h]
@[simp] theorem State.memRead_ir (s : State) (k : ReadKind) (a : Addr) : (s.memRead k a).2.ir = s.ir := by
  cases h : s.kindAt a <;> simp [State.memRead, State.drawBus, h]
@[simp] theorem State.memRead_tmpA (s : State) (k : ReadKind) (a : Addr) : (s.memRead k a).2.tmpA = s.tmpA := by
  cases h : s.kindAt a <;> simp [State.memRead, State.drawBus, h]
@[simp] theorem State.memRead_tmpB (s : State) (k : ReadKind) (a : Addr) : (s.memRead k a).2.tmpB = s.tmpB := by
  cases h : s.kindAt a <;> simp [State.memRead, State.drawBus, h]
@[simp] theorem State.memRead_stopped (s : State) (k : ReadKind) (a : Addr) : (s.memRead k a).2.stopped = s.stopped := by
  cases h : s.kindAt a <;> simp [State.memRead, State.drawBus, h]
@[simp] theorem State.memRead_tstate (s : State) (k : ReadKind) (a : Addr) : (s.memRead k a).2.tstate = s.tstate := by
  cases h : s.kindAt a <;> simp [State.memRead, State.drawBus, h]
@[simp] theorem State.memRead_cycle (s : State) (k : ReadKind) (a : Addr) : (s.memRead k a).2.cycle = s.cycle := by
  cases h : s.kindAt a <;> simp [State.memRead, State.drawBus, h]
@[simp] theorem State.memRead_mem (s : State) (k : ReadKind) (a : Addr) : (s.memRead k a).2.mem = s.mem := by
  cases h : s.kindAt a <;> simp [State.memRead, State.drawBus, h]
@[simp] theorem State.memRead_memMap (s : State) (k : ReadKind) (a : Addr) : (s.memRead k a).2.memMap = s.memMap := by
  cases h : s.kindAt a <;> simp [State.memRead, State.drawBus, h]
@[simp] theorem State.memRead_interrupts (s : State) (k : ReadKind) (a : Addr) : (s.memRead k a).2.interrupts = s.interrupts := by
  cases h : s.kindAt a <;> simp [State.memRead, State.drawBus, h]
@[simp] theorem State.memRead_offersDrawn (s : State) (k : ReadKind) (a : Addr) : (s.memRead k a).2.offersDrawn = s.offersDrawn := by
  cases h : s.kindAt a <;> simp [State.memRead, State.drawBus, h]
@[simp] theorem State.memRead_inputs (s : State) (k : ReadKind) (a : Addr) : (s.memRead k a).2.inputs = s.inputs := by
  cases h : s.kindAt a <;> simp [State.memRead, State.drawBus, h]
@[simp] theorem State.memRead_testBus (s : State) (k : ReadKind) (a : Addr) : (s.memRead k a).2.testBus = s.testBus := by
  cases h : s.kindAt a <;> simp [State.memRead, State.drawBus, h]
@[simp] theorem State.memRead_states (s : State) (k : ReadKind) (a : Addr) : (s.memRead k a).2.states = s.states := by
  cases h : s.kindAt a <;> simp [State.memRead, State.drawBus, h]
@[simp] theorem State.memRead_reg (s : State) (k : ReadKind) (a : Addr) (r : Reg) : (s.memRead k a).2.reg r = s.reg r := by
  cases r <;> simp
@[simp] theorem State.memRead_mAddr (s : State) (k : ReadKind) (a : Addr) : (s.memRead k a).2.mAddr = s.mAddr := by
  simp [State.mAddr]
@[simp] theorem State.memRead_cond (s : State) (k : ReadKind) (a : Addr) (c : Cond) : (s.memRead k a).2.cond c = s.cond c := by
  cases c <;> simp
@[simp] theorem State.memRead_pc (s : State) (k : ReadKind) (a : Addr) : (s.memRead k a).2.pc = s.pc := by
  simp [State.pc]
@[simp] theorem State.memRead_kindAt (s : State) (k : ReadKind) (a : Addr) (x : Addr) : (s.memRead k a).2.kindAt x = s.kindAt x := by
  simp [State.kindAt]

/-! ## `memWrite` -/
@[simp] theorem State.memWrite_rA (s : State) (a : Addr) (v : Byte) : (s.memWrite a v).rA = s.rA := by
  cases h : s.kindAt a <;> simp [State.memWrite, h]
@[simp] theorem State.memWrite_rB (s : State) (a : Addr) (v : Byte) : (s.memWrite a v).rB = s.rB := by
  cases h : s.kindAt a <;> simp [State.memWrite, h]
@[simp] theorem State.memWrite_rC (s : State) (a : Addr) (v : Byte) : (s.memWrite a v).rC = s.rC := by
  cases h : s.kindAt a <;> simp [State.memWrite, h]
@[simp] theorem State.memWrite_rD (s : State) (a : Addr) (v : Byte) : (s.memWrite a v).rD = s.rD := by
  cases h : s.kindAt a <;> simp [State.memWrite, h]
@[simp] theorem State.memWrite_rE (s : State) (a : Addr) (v : Byte) : (s.memWrite a v).rE = s.rE := by
  cases h : s.kindAt a <;> simp [State.memWrite, h]
@[simp] theorem State.memWrite_rH (s : State) (a : Addr) (v : Byte) : (s.memWrite a v).rH = s.rH := by
  cases h : s.kindAt a <;> simp [State.memWrite, h]
@[simp] theorem State.memWrite_rL (s : State) (a : Addr) (v : Byte) : (s.memWrite a v).rL = s.rL := by
  cases h : s.kindAt a <;> simp [State.memWrite, h]
@[simp] theorem State.memWrite_stk (s : State) (a : Addr) (v : Byte) : (s.memWrite a v).stk = s.stk := by
  cases h : s.kindAt a <;> simp [State.memWrite, h]
@[simp] theorem State.memWrite_sp (s : State) (a : Addr) (v : Byte) : (s.memWrite a v).sp = s.sp := by
  cases h : s.kindAt a <;> simp [State.memWrite, h]
@[simp] theorem State.memWrite_fC (s : State) (a : Addr) (v : Byte) : (s.memWrite a v).fC = s.fC := by
  cases h : s.kindAt a <;> simp [State.memWrite, h]
@[simp] theorem State.memWrite_fZ (s : State) (a : Addr) (v : Byte) : (s.memWrite a v).fZ = s.fZ := by
  cases h : s.kindAt a <;> simp [State.memWrite, h]
@[simp] theorem State.memWrite_fS (s : State) (a : Addr) (v : Byte) : (s.memWrite a v).fS = s.fS := by
  cases h : s.kindAt a <;> simp [State.memWrite, h]
@[simp] theorem State.memWrite_fP (s : State) (a : Addr) (v : Byte) : (s.memWrite a v).fP = s.fP := by
  cases h : s.kindAt a <;> simp [State.memWrite, h]
@[simp] theorem State.memWrite_ir (s : State) (a : Addr) (v : Byte) : (s.memWrite a v).ir = s.ir := by
  cases h : s.kindAt a <;> simp [State.memWrite, h]
@[simp] theorem State.memWrite_tmpA (s : State) (a : Addr) (v : Byte) : (s.memWrite a v).tmpA = s.tmpA := by
  cases h : s.kindAt a <;> simp [State.memWrite, h]
@[simp] theorem State.memWrite_tmpB (s : State) (a : Addr) (v : Byte) : (s.memWrite a v).tmpB = s.tmpB := by
  cases h : s.kindAt a <;> simp [State.memWrite, h]
@[simp] theorem State.memWrite_stopped (s : State) (a : Addr) (v : Byte) : (s.memWrite a v).stopped = s.stopped := by
  cases h : s.kindAt a <;> simp [State.memWrite, h]
@[simp] theorem State.memWrite_tstate (s : State) (a : Addr) (v : Byte) : (s.memWrite a v).tstate = s.tstate := by
  cases h : s.kindAt a <;> simp [State.memWrite, h]
@[simp] theorem State.memWrite_cycle (s : State) (a : Addr) (v : Byte) : (s.memWrite a v).cycle = s.cycle := by
  cases h : s.kindAt a <;> simp [State.memWrite, h]
@[simp] theorem State.memWrite_memMap (s : State) (a : Addr) (v : Byte) : (s.memWrite a v).memMap = s.memMap := by
  cases h : s.kindAt a <;> simp [State.memWrite, h]
@[simp] theorem State.memWrite_interrupts (s : State) (a : Addr) (v : Byte) : (s.memWrite a v).interrupts = s.interrupts := by
  cases h : s.kindAt a <;> simp [State.memWrite, h]
@[simp] theorem State.memWrite_offersDrawn (s : State) (a : Addr) (v : Byte) : (s.memWrite a v).offersDrawn = s.offersDrawn := by
  cases h : s.kindAt a <;> simp [State.memWrite, h]
@[simp] theorem State.memWrite_inputs (s : State) (a : Addr) (v : Byte) : (s.memWrite a v).inputs = s.inputs := by
  cases h : s.kindAt a <;> simp [State.memWrite, h]
@[simp] theorem State.memWrite_draws (s : State) (a : Addr) (v : Byte) : (s.memWrite a v).draws = s.draws := by
  cases h : s.kindAt a <;> simp [State.memWrite, h]
@[simp] theorem State.memWrite_testBus (s : State) (a : Addr) (v : Byte) : (s.memWrite a v).testBus = s.testBus := by
  cases h : s.kindAt a <;> simp [State.memWrite, h]
@[simp] theorem State.memWrite_states (s : State) (a : Addr) (v : Byte) : (s.memWrite a v).states = s.states := by
  cases h : s.kindAt a <;> simp [State.memWrite, h]
@[simp] theorem State.memWrite_reg (s : State) (a : Addr) (v : Byte) (r : Reg) : (s.memWrite a v).reg r = s.reg r := by
  cases r <;> simp
@[simp] theorem State.memWrite_mAddr (s : State) (a : Addr) (v : Byte) : (s.memWrite a v).mAddr = s.mAddr := by
  simp [State.mAddr]
@[simp] theorem State.memWrite_cond (s : State) (a : Addr) (v : Byte) (c : Cond) : (s.memWrite a v).cond c = s.cond c := by
  cases c <;> simp
@[simp] theorem State.memWrite_pc (s : State) (a : Addr) (v : Byte) : (s.memWrite a v).pc = s.pc := by
  simp [State.pc]
@[simp] theorem State.memWrite_kindAt (s : State) (a : Addr) (v : Byte) (x : Addr) : (s.memWrite a v).kindAt x = s.kindAt x := by
  simp [State.kindAt]

/-! ## `ioIn` -/
@[simp] theorem State.ioIn_rA (s : State) (port : Port) : (s.ioIn port).2.rA = s.rA := by
  cases h : s.inputs <;> simp [State.ioIn, State.nextInput, h]
@[simp] theorem State.ioIn_rB (s : State) (port : Port) : (s.ioIn port).2.rB = s.rB := by
  cases h : s.inputs <;> simp [State.ioIn, State.nextInput, h]
@[simp] theorem State.ioIn_rC (s : State) (port : Port) : (s.ioIn port).2.rC = s.rC := by
  cases h : s.inputs <;> simp [State.ioIn, State.nextInput, h]
@[simp] theorem State.ioIn_rD (s : State) (port : Port) : (s.ioIn port).2.rD = s.rD := by
  cases h : s.inputs <;> simp [State.ioIn, State.nextInput, h]
@[simp] theorem State.ioIn_rE (s : State) (port : Port) : (s.ioIn port).2.rE = s.rE := by
  cases h : s.inputs <;> simp [State.ioIn, State.nextInput, h]
@[simp] theorem State.ioIn_rH (s : State) (port : Port) : (s.ioIn port).2.rH = s.rH := by
  cases h : s.inputs <;> simp [State.ioIn, State.nextInput, h]
@[simp] theorem State.ioIn_rL (s : State) (port : Port) : (s.ioIn port).2.rL = s.rL := by
  cases h : s.inputs <;> simp [State.ioIn, State.nextInput, h]
@[simp] theorem State.ioIn_stk (s : State) (port : Port) : (s.ioIn port).2.stk = s.stk := by
  cases h : s.inputs <;> simp [State.ioIn, State.nextInput, h]
@[simp] theorem State.ioIn_sp (s : State) (port : Port) : (s.ioIn port).2.sp = s.sp := by
  cases h : s.inputs <;> simp [State.ioIn, State.nextInput, h]
@[simp] theorem State.ioIn_fC (s : State) (port : Port) : (s.ioIn port).2.fC = s.fC := by
  cases h : s.inputs <;> simp [State.ioIn, State.nextInput, h]
@[simp] theorem State.ioIn_fZ (s : State) (port : Port) : (s.ioIn port).2.fZ = s.fZ := by
  cases h : s.inputs <;> simp [State.ioIn, State.nextInput, h]
@[simp] theorem State.ioIn_fS (s : State) (port : Port) : (s.ioIn port).2.fS = s.fS := by
  cases h : s.inputs <;> simp [State.ioIn, State.nextInput, h]
@[simp] theorem State.ioIn_fP (s : State) (port : Port) : (s.ioIn port).2.fP = s.fP := by
  cases h : s.inputs <;> simp [State.ioIn, State.nextInput, h]
@[simp] theorem State.ioIn_ir (s : State) (port : Port) : (s.ioIn port).2.ir = s.ir := by
  cases h : s.inputs <;> simp [State.ioIn, State.nextInput, h]
@[simp] theorem State.ioIn_tmpA (s : State) (port : Port) : (s.ioIn port).2.tmpA = s.tmpA := by
  cases h : s.inputs <;> simp [State.ioIn, State.nextInput, h]
@[simp] theorem State.ioIn_tmpB (s : State) (port : Port) : (s.ioIn port).2.tmpB = s.tmpB := by
  cases h : s.inputs <;> simp [State.ioIn, State.nextInput, h]
@[simp] theorem State.ioIn_stopped (s : State) (port : Port) : (s.ioIn port).2.stopped = s.stopped := by
  cases h : s.inputs <;> simp [State.ioIn, State.nextInput, h]
@[simp] theorem State.ioIn_tstate (s : State) (port : Port) : (s.ioIn port).2.tstate = s.tstate := by
  cases h : s.inputs <;> simp [State.ioIn, State.nextInput, h]
@[simp] theorem State.ioIn_cycle (s : State) (port : Port) : (s.ioIn port).2.cycle = s.cycle := by
  cases h : s.inputs <;> simp [State.ioIn, State.nextInput, h]
@[simp] theorem State.ioIn_mem (s : State) (port : Port) : (s.ioIn port).2.mem = s.mem := by
  cases h : s.inputs <;> simp [State.ioIn, State.nextInput, h]
@[simp] theorem State.ioIn_memMap (s : State) (port : Port) : (s.ioIn port).2.memMap = s.memMap := by
  cases h : s.inputs <;> simp [State.ioIn, State.nextInput, h]
@[simp] theorem State.ioIn_interrupts (s : State) (port : Port) : (s.ioIn port).2.interrupts = s.interrupts := by
  cases h : s.inputs <;> simp [State.ioIn, State.nextInput, h]
@[simp] theorem State.ioIn_offersDrawn (s : State) (port : Port) : (s.ioIn port).2.offersDrawn = s.offersDrawn := by
  cases h : s.inputs <;> simp [State.ioIn, State.nextInput, h]
@[simp] theorem State.ioIn_testBus (s : State) (port : Port) : (s.ioIn port).2.testBus = s.testBus := by
  cases h : s.inputs <;> simp [State.ioIn, State.nextInput, h]
@[simp] theorem State.ioIn_states (s : State) (port : Port) : (s.ioIn port).2.states = s.states := by
  cases h : s.inputs <;> simp [State.ioIn, State.nextInput, h]
@[simp] theorem State.ioIn_reg (s : State) (port : Port) (r : Reg) : (s.ioIn port).2.reg r = s.reg r := by
  cases r <;> simp
@[simp] theorem State.ioIn_mAddr (s : State) (port : Port) : (s.ioIn port).2.mAddr = s.mAddr := by
  simp [State.mAddr]
@[simp] theorem State.ioIn_cond (s : State) (port : Port) (c : Cond) : (s.ioIn port).2.cond c = s.cond c := by
  cases c <;> simp
@[simp] theorem State.ioIn_pc (s : State) (port : Port) : (s.ioIn port).2.pc = s.pc := by
  simp [State.pc]
@[simp] theorem State.ioIn_kindAt (s : State) (port : Port) (x : Addr) : (s.ioIn port).2.kindAt x = s.kindAt x := by
  simp [State.kindAt]

/-! ## `doAlu` -/
@[simp] theorem State.doAlu_rB (s : State) (p : AluOp) (y : Byte) : (s.doAlu p y).rB = s.rB := by
  cases p <;> rfl
@[simp] theorem State.doAlu_rC (s : State) (p : AluOp) (y : Byte) : (s.doAlu p y).rC = s.rC := by
  cases p <;> rfl
@[simp] theorem State.doAlu_rD (s : State) (p : AluOp) (y : Byte) : (s.doAlu p y).rD = s.rD := by
  cases p <;> rfl
@[simp] theorem State.doAlu_rE (s : State) (p : AluOp) (y : Byte) : (s.doAlu p y).rE = s.rE := by
  cases p <;> rfl
@[simp] theorem State.doAlu_rH (s : State) (p : AluOp) (y : Byte) : (s.doAlu p y).rH = s.rH := by
  cases p <;> rfl
@[simp] theorem State.doAlu_rL (s : State) (p : AluOp) (y : Byte) : (s.doAlu p y).rL = s.rL := by
  cases p <;> rfl
@[simp] theorem State.doAlu_stk (s : State) (p : AluOp) (y : Byte) : (s.doAlu p y).stk = s.stk := by
  cases p <;> rfl
@[simp] theorem State.doAlu_sp (s : State) (p : AluOp) (y : Byte) : (s.doAlu p y).sp = s.sp := by
  cases p <;> rfl
@[simp] theorem State.doAlu_ir (s : State) (p : AluOp) (y : Byte) : (s.doAlu p y).ir = s.ir := by
  cases p <;> rfl
@[simp] theorem State.doAlu_tmpA (s : State) (p : AluOp) (y : Byte) : (s.doAlu p y).tmpA = s.tmpA := by
  cases p <;> rfl
@[simp] theorem State.doAlu_stopped (s : State) (p : AluOp) (y : Byte) : (s.doAlu p y).stopped = s.stopped := by
  cases p <;> rfl
@[simp] theorem State.doAlu_tstate (s : State) (p : AluOp) (y : Byte) : (s.doAlu p y).tstate = s.tstate := by
  cases p <;> rfl
@[simp] theorem State.doAlu_cycle (s : State) (p : AluOp) (y : Byte) : (s.doAlu p y).cycle = s.cycle := by
  cases p <;> rfl
@[simp] theorem State.doAlu_mem (s : State) (p : AluOp) (y : Byte) : (s.doAlu p y).mem = s.mem := by
  cases p <;> rfl
@[simp] theorem State.doAlu_memMap (s : State) (p : AluOp) (y : Byte) : (s.doAlu p y).memMap = s.memMap := by
  cases p <;> rfl
@[simp] theorem State.doAlu_interrupts (s : State) (p : AluOp) (y : Byte) : (s.doAlu p y).interrupts = s.interrupts := by
  cases p <;> rfl
@[simp] theorem State.doAlu_offersDrawn (s : State) (p : AluOp) (y : Byte) : (s.doAlu p y).offersDrawn = s.offersDrawn := by
  cases p <;> rfl
@[simp] theorem State.doAlu_inputs (s : State) (p : AluOp) (y : Byte) : (s.doAlu p y).inputs = s.inputs := by
  cases p <;> rfl
@[simp] theorem State.doAlu_draws (s : State) (p : AluOp) (y : Byte) : (s.doAlu p y).draws = s.draws := by
  cases p <;> rfl
@[simp] theorem State.doAlu_events (s : State) (p : AluOp) (y : Byte) : (s.doAlu p y).events = s.events := by
  cases p <;> rfl
@[simp] theorem State.doAlu_testBus (s : State) (p : AluOp) (y : Byte) : (s.doAlu p y).testBus = s.testBus := by
  cases p <;> rfl
@[simp] theorem State.doAlu_states (s : State) (p : AluOp) (y : Byte) : (s.doAlu p y).states = s.states := by
  cases p <;> rfl
@[simp] theorem State.doAlu_pc (s : State) (p : AluOp) (y : Byte) : (s.doAlu p y).pc = s.pc := by
  simp [State.pc]
@[simp] theorem State.doAlu_kindAt (s : State) (p : AluOp) (y : Byte) (x : Addr) : (s.doAlu p y).kindAt x = s.kindAt x := by
  simp [State.kindAt]
@[simp] theorem State.doAlu_tmpB (s : State) (p : AluOp) (y : Byte) : (s.doAlu p y).tmpB = y := by
  cases p <;> rfl

/-! ## What the cycles answer and change -/

/-- A read where there is memory answers the byte held and adds its event (R52). -/
theorem State.memRead_memory (s : State) (k : ReadKind) (a : Addr) (h : s.HasMemory a) :
    s.memRead k a = (s.mem.read a.toNat, s.log (.read k a)) := by
  rcases h with h | h <;> simp [State.memRead, h]

/-- A read where there is no memory answers a draw, moves the counter on and adds its event (R52). -/
theorem State.memRead_open (s : State) (k : ReadKind) (a : Addr) (h : ¬ s.HasMemory a) :
    s.memRead k a = (s.log (.read k a)).drawBus := by
  cases hk : s.kindAt a <;> simp_all [State.memRead]

/-- Everything a memory read cycle can do, in the terms of the claims. -/
theorem State.memRead_spec (s : State) (k : ReadKind) (a : Addr) :
    ReadsByte k a (s.memRead k a).1 s (s.memRead k a).2 := by
  by_cases h : s.HasMemory a
  · simp only [State.memRead_memory s k a h]
    exact ⟨rfl, rfl, .inl ⟨h, rfl, rfl⟩⟩
  · simp only [State.memRead_open s k a h]
    exact ⟨rfl, rfl, .inr ⟨h, rfl, rfl⟩⟩

/-- Everything a PCW cycle can do, on canonical memory. -/
theorem State.memWrite_spec (s : State) (a : Addr) (v : Byte) (h : s.mem.wf = true) :
    WritesByte a v s (s.memWrite a v) := by
  cases hk : s.kindAt a <;> simp only [State.memWrite, hk]
  · refine ⟨rfl, rfl, rfl, fun b hb => Memory.read_write_other s.mem a.toNat b v hb, ?_⟩
    simpa [hk] using Memory.read_write_same s.mem a.toNat v h
  all_goals exact ⟨rfl, rfl, rfl, fun _ _ => rfl, by simp [hk]⟩

/-- A PCW cycle leaves every byte but the one at its address alone, in any memory. -/
theorem State.memWrite_other (s : State) (a : Addr) (v : Byte) (b : Nat) (hb : b ≠ a.toNat) :
    (s.memWrite a v).mem.read b = s.mem.read b := by
  cases hk : s.kindAt a <;> simp only [State.memWrite, hk]
  · exact Memory.read_write_other s.mem a.toNat b v hb
  all_goals rfl

/-- A PCW cycle keeps the canonical form of memory. -/
theorem State.memWrite_wf (s : State) (a : Addr) (v : Byte) (h : s.mem.wf = true) : (s.memWrite a v).mem.wf = true := by
  cases hk : s.kindAt a <;> simp only [State.memWrite, hk]
  · exact Memory.write_wf s.mem a.toNat v h (Addr_toNat_lt a)
  all_goals exact h

/-- The PCC cycle of INP: the byte is the next one listed, or a draw once the list is used up, and the event shows the
accumulator and the flags as they were (R60). -/
theorem State.ioIn_spec (s : State) (port : Port) :
    (s.ioIn port).2.events = .input port s.rA s.flagNibble (s.ioIn port).1 :: s.events ∧
      ((∃ rest, s.inputs = (s.ioIn port).1 :: rest ∧ (s.ioIn port).2.inputs = rest ∧ (s.ioIn port).2.draws = s.draws) ∨
        (s.inputs = [] ∧ (s.ioIn port).1 = Config.inputByte s.draws ∧ (s.ioIn port).2.inputs = [] ∧
          (s.ioIn port).2.draws = s.draws + 1)) := by
  cases h : s.inputs with
  | nil => simp [State.ioIn, State.nextInput, State.log, h]
  | cons v rest => simp [State.ioIn, State.nextInput, State.log, h]

/-- The offer at a boundary is the one presented there, listed or free (R232). -/
theorem State.nextOffer_fst (s : State) : s.nextOffer.1 = s.offerAt 0 := by
  cases h : s.interrupts <;> simp [State.nextOffer, State.offerAt, h]

/-- Taking the offer uses it up and changes nothing else. -/
theorem State.nextOffer_snd (s : State) : s.nextOffer.2 = s.afterOffers 1 := by
  cases s with
  | mk =>
    rename_i offers _ _ _ _ _ _
    cases offers <;> simp [State.nextOffer, State.afterOffers]

/-- After some boundaries the offers are those that were further ahead. -/
theorem State.offerAt_afterOffers (s : State) (n m : Nat) : (s.afterOffers n).offerAt m = s.offerAt (n + m) := by
  have h : n - s.interrupts.length + (m - (s.interrupts.length - n)) = n + m - s.interrupts.length := by omega
  simp [State.offerAt, State.afterOffers, List.getElem?_drop, Nat.add_assoc, h]

/-- The offers of some boundaries and then of some more. -/
theorem State.afterOffers_afterOffers (s : State) (n m : Nat) :
    (s.afterOffers n).afterOffers m = s.afterOffers (n + m) := by
  have h : n - s.interrupts.length + (m - (s.interrupts.length - n)) = n + m - s.interrupts.length := by omega
  simp [State.afterOffers, List.drop_drop, Nat.add_assoc, h]

/-! ## INr and DCr -/

/-- The effect of INr and DCr, the carry being left alone as R5 has it (R116, R117). -/
theorem State.countTo_eq (s : State) (d : Reg) (v : Byte) (c : Bool) :
    s.countTo d v c = ((s.showOpens .one).setReg d v).setZSP v := rfl

/-! ## The ALU -/

/-- A wrapped difference, as a number. -/
theorem toNat_ofInt_sub (x y c : Nat) (hx : x < 256) (hy : y < 256) (hc : c < 2) :
    (BitVec.ofInt 8 (x - y - c : Int)).toNat = (512 + x - y - c) % 256 := by
  rw [BitVec.toNat_ofInt]
  omega

/-- The ALU function computes what R130 says, in numbers and bits. -/
theorem alu_gives (p : AluOp) (x y : Byte) (c : Bool) : AluGives p x y c (alu p x y c).value (alu p x y c).carry := by
  have hx : x.toNat < 256 := x.isLt
  have hy : y.toNat < 256 := y.isLt
  have hc : c.toNat < 2 := Bool.toNat_lt c
  cases p <;> simp only [AluGives, alu]
  case ad => exact ⟨by simp, by simp⟩
  case ac => exact ⟨by simp, by simp⟩
  case su => exact ⟨by rw [BitVec.toNat_ofInt]; omega, by simp⟩
  case sb => exact ⟨toNat_ofInt_sub x.toNat y.toNat c.toNat hx hy hc, by simp⟩
  case nd => simp
  case xr => simp
  case or => simp
  case cp => exact ⟨by rw [BitVec.toNat_ofInt]; omega, by simp⟩

/-- The number of 1 bits is even exactly when R35's sum is. -/
theorem parity_iff (v : Byte) : parity v = true ↔ onesIn v % 2 = 0 := by
  revert v; decide

/-- `SetZSP` leaves the flip-flops of the result (R35). -/
theorem State.setZSP_zspOf (s : State) (v : Byte) : ZspOf v (s.setZSP v) := by
  have sign : v[7] = true ↔ 128 ≤ v.toNat := by revert v; decide
  refine ⟨?_, sign, parity_iff v⟩
  rw [State.setZSP_fZ, beq_iff_eq, ← BitVec.toNat_inj]
  simp

/-- `ZspOf` looks at three flip-flops only. -/
theorem ZspOf.congr (v : Byte) (s t : State) (h : ZspOf v s) (hz : t.fZ = s.fZ) (hs : t.fS = s.fS) (hp : t.fP = s.fP) :
    ZspOf v t := by
  unfold ZspOf at h ⊢
  rw [hz, hs, hp]
  exact h

/-- `DoALU` has the effect of R130 on A and the flip-flops. -/
theorem State.doAlu_effect (s : State) (p : AluOp) (y : Byte) : AluEffect p y s (s.doAlu p y) := by
  refine ⟨(alu p s.rA y s.fC).value, ?_, ?_, ?_, ?_⟩
  · have := alu_gives p s.rA y s.fC
    cases p <;> simpa [State.doAlu, aluWritesA] using this
  · refine ZspOf.congr _ _ _ (State.setZSP_zspOf s _) ?_ ?_ ?_ <;> cases p <;> simp [State.doAlu, aluWritesA]
  · cases p <;> simp [State.doAlu, aluWritesA]
  · intro r hr
    cases p <;> cases r <;> first | exact absurd rfl hr | rfl

/-- The effect looks only at A, the carry and the other registers of the state before. -/
theorem AluEffect.congr_left (p : AluOp) (y : Byte) (s s' t : State) (h : AluEffect p y s' t) (hr : SameRegs s s')
    (hc : s'.fC = s.fC) : AluEffect p y s t := by
  obtain ⟨r, h1, h2, h3, h4⟩ := h
  have hA : s'.rA = s.rA := hr .A
  exact ⟨r, by rw [← hA, ← hc]; exact h1, h2, by rw [← hA]; exact h3, fun q hq => (h4 q hq).trans (hr q)⟩

/-- The end of an instruction changes nothing the effect looks at. -/
theorem AluEffect.complete (p : AluOp) (y : Byte) (s t : State) (n : Nat) (h : AluEffect p y s t) :
    AluEffect p y s (t.complete n) := by
  obtain ⟨r, h1, h2, h3, h4⟩ := h
  exact ⟨r, h1, h2, h3, fun q hq => (State.complete_reg t n q).trans (h4 q hq)⟩

end Sys2Proof.Machine
end

