-- ==== Sys2Proof/Laws/Fetch.lean ====
section
/-!
SUPPORT. What fetching leaves alone, field by field; what a fetch of one byte and of a whole instruction answers where
there is memory; and the cases of a step.
-/

namespace Sys2Proof.Machine

/-! ## `fetchByte` -/
@[simp] theorem State.fetchByte_rA (s : State) (k : ReadKind) : (s.fetchByte k).2.rA = s.rA := by
  simp [State.fetchByte]
@[simp] theorem State.fetchByte_rB (s : State) (k : ReadKind) : (s.fetchByte k).2.rB = s.rB := by
  simp [State.fetchByte]
@[simp] theorem State.fetchByte_rC (s : State) (k : ReadKind) : (s.fetchByte k).2.rC = s.rC := by
  simp [State.fetchByte]
@[simp] theorem State.fetchByte_rD (s : State) (k : ReadKind) : (s.fetchByte k).2.rD = s.rD := by
  simp [State.fetchByte]
@[simp] theorem State.fetchByte_rE (s : State) (k : ReadKind) : (s.fetchByte k).2.rE = s.rE := by
  simp [State.fetchByte]
@[simp] theorem State.fetchByte_rH (s : State) (k : ReadKind) : (s.fetchByte k).2.rH = s.rH := by
  simp [State.fetchByte]
@[simp] theorem State.fetchByte_rL (s : State) (k : ReadKind) : (s.fetchByte k).2.rL = s.rL := by
  simp [State.fetchByte]
@[simp] theorem State.fetchByte_sp (s : State) (k : ReadKind) : (s.fetchByte k).2.sp = s.sp := by
  simp [State.fetchByte]
@[simp] theorem State.fetchByte_fC (s : State) (k : ReadKind) : (s.fetchByte k).2.fC = s.fC := by
  simp [State.fetchByte]
@[simp] theorem State.fetchByte_fZ (s : State) (k : ReadKind) : (s.fetchByte k).2.fZ = s.fZ := by
  simp [State.fetchByte]
@[simp] theorem State.fetchByte_fS (s : State) (k : ReadKind) : (s.fetchByte k).2.fS = s.fS := by
  simp [State.fetchByte]
@[simp] theorem State.fetchByte_fP (s : State) (k : ReadKind) : (s.fetchByte k).2.fP = s.fP := by
  simp [State.fetchByte]
@[simp] theorem State.fetchByte_ir (s : State) (k : ReadKind) : (s.fetchByte k).2.ir = s.ir := by
  simp [State.fetchByte]
@[simp] theorem State.fetchByte_tmpA (s : State) (k : ReadKind) : (s.fetchByte k).2.tmpA = s.tmpA := by
  simp [State.fetchByte]
@[simp] theorem State.fetchByte_tmpB (s : State) (k : ReadKind) : (s.fetchByte k).2.tmpB = s.tmpB := by
  simp [State.fetchByte]
@[simp] theorem State.fetchByte_stopped (s : State) (k : ReadKind) : (s.fetchByte k).2.stopped = s.stopped := by
  simp [State.fetchByte]
@[simp] theorem State.fetchByte_tstate (s : State) (k : ReadKind) : (s.fetchByte k).2.tstate = s.tstate := by
  simp [State.fetchByte]
@[simp] theorem State.fetchByte_cycle (s : State) (k : ReadKind) : (s.fetchByte k).2.cycle = s.cycle := by
  simp [State.fetchByte]
@[simp] theorem State.fetchByte_mem (s : State) (k : ReadKind) : (s.fetchByte k).2.mem = s.mem := by
  simp [State.fetchByte]
@[simp] theorem State.fetchByte_memMap (s : State) (k : ReadKind) : (s.fetchByte k).2.memMap = s.memMap := by
  simp [State.fetchByte]
@[simp] theorem State.fetchByte_interrupts (s : State) (k : ReadKind) : (s.fetchByte k).2.interrupts = s.interrupts := by
  simp [State.fetchByte]
@[simp] theorem State.fetchByte_offersDrawn (s : State) (k : ReadKind) : (s.fetchByte k).2.offersDrawn = s.offersDrawn := by
  simp [State.fetchByte]
@[simp] theorem State.fetchByte_inputs (s : State) (k : ReadKind) : (s.fetchByte k).2.inputs = s.inputs := by
  simp [State.fetchByte]
@[simp] theorem State.fetchByte_testBus (s : State) (k : ReadKind) : (s.fetchByte k).2.testBus = s.testBus := by
  simp [State.fetchByte]
@[simp] theorem State.fetchByte_states (s : State) (k : ReadKind) : (s.fetchByte k).2.states = s.states := by
  simp [State.fetchByte]
@[simp] theorem State.fetchByte_reg (s : State) (k : ReadKind) (r : Reg) : (s.fetchByte k).2.reg r = s.reg r := by
  cases r <;> simp
@[simp] theorem State.fetchByte_mAddr (s : State) (k : ReadKind) : (s.fetchByte k).2.mAddr = s.mAddr := by
  simp [State.mAddr]
@[simp] theorem State.fetchByte_cond (s : State) (k : ReadKind) (c : Cond) : (s.fetchByte k).2.cond c = s.cond c := by
  cases c <;> simp
@[simp] theorem State.fetchByte_kindAt (s : State) (k : ReadKind) (x : Addr) : (s.fetchByte k).2.kindAt x = s.kindAt x := by
  simp [State.kindAt]

/-! ## `fetchOpcode` -/
@[simp] theorem State.fetchOpcode_rA (s : State) : s.fetchOpcode.2.rA = s.rA := by
  simp [State.fetchOpcode]
@[simp] theorem State.fetchOpcode_rB (s : State) : s.fetchOpcode.2.rB = s.rB := by
  simp [State.fetchOpcode]
@[simp] theorem State.fetchOpcode_rC (s : State) : s.fetchOpcode.2.rC = s.rC := by
  simp [State.fetchOpcode]
@[simp] theorem State.fetchOpcode_rD (s : State) : s.fetchOpcode.2.rD = s.rD := by
  simp [State.fetchOpcode]
@[simp] theorem State.fetchOpcode_rE (s : State) : s.fetchOpcode.2.rE = s.rE := by
  simp [State.fetchOpcode]
@[simp] theorem State.fetchOpcode_rH (s : State) : s.fetchOpcode.2.rH = s.rH := by
  simp [State.fetchOpcode]
@[simp] theorem State.fetchOpcode_rL (s : State) : s.fetchOpcode.2.rL = s.rL := by
  simp [State.fetchOpcode]
@[simp] theorem State.fetchOpcode_sp (s : State) : s.fetchOpcode.2.sp = s.sp := by
  simp [State.fetchOpcode]
@[simp] theorem State.fetchOpcode_fC (s : State) : s.fetchOpcode.2.fC = s.fC := by
  simp [State.fetchOpcode]
@[simp] theorem State.fetchOpcode_fZ (s : State) : s.fetchOpcode.2.fZ = s.fZ := by
  simp [State.fetchOpcode]
@[simp] theorem State.fetchOpcode_fS (s : State) : s.fetchOpcode.2.fS = s.fS := by
  simp [State.fetchOpcode]
@[simp] theorem State.fetchOpcode_fP (s : State) : s.fetchOpcode.2.fP = s.fP := by
  simp [State.fetchOpcode]
@[simp] theorem State.fetchOpcode_tmpA (s : State) : s.fetchOpcode.2.tmpA = s.tmpA := by
  simp [State.fetchOpcode]
@[simp] theorem State.fetchOpcode_stopped (s : State) : s.fetchOpcode.2.stopped = s.stopped := by
  simp [State.fetchOpcode]
@[simp] theorem State.fetchOpcode_tstate (s : State) : s.fetchOpcode.2.tstate = s.tstate := by
  simp [State.fetchOpcode]
@[simp] theorem State.fetchOpcode_cycle (s : State) : s.fetchOpcode.2.cycle = s.cycle := by
  simp [State.fetchOpcode]
@[simp] theorem State.fetchOpcode_mem (s : State) : s.fetchOpcode.2.mem = s.mem := by
  simp [State.fetchOpcode]
@[simp] theorem State.fetchOpcode_memMap (s : State) : s.fetchOpcode.2.memMap = s.memMap := by
  simp [State.fetchOpcode]
@[simp] theorem State.fetchOpcode_interrupts (s : State) : s.fetchOpcode.2.interrupts = s.interrupts := by
  simp [State.fetchOpcode]
@[simp] theorem State.fetchOpcode_offersDrawn (s : State) : s.fetchOpcode.2.offersDrawn = s.offersDrawn := by
  simp [State.fetchOpcode]
@[simp] theorem State.fetchOpcode_inputs (s : State) : s.fetchOpcode.2.inputs = s.inputs := by
  simp [State.fetchOpcode]
@[simp] theorem State.fetchOpcode_testBus (s : State) : s.fetchOpcode.2.testBus = s.testBus := by
  simp [State.fetchOpcode]
@[simp] theorem State.fetchOpcode_states (s : State) : s.fetchOpcode.2.states = s.states := by
  simp [State.fetchOpcode]
@[simp] theorem State.fetchOpcode_reg (s : State) (r : Reg) : s.fetchOpcode.2.reg r = s.reg r := by
  cases r <;> simp
@[simp] theorem State.fetchOpcode_cond (s : State) (c : Cond) : s.fetchOpcode.2.cond c = s.cond c := by
  cases c <;> simp
@[simp] theorem State.fetchOpcode_kindAt (s : State) (x : Addr) : s.fetchOpcode.2.kindAt x = s.kindAt x := by
  simp [State.kindAt]

/-! ## `fetchSecond` -/
@[simp] theorem State.fetchSecond_rA (s : State) : s.fetchSecond.2.rA = s.rA := by
  simp [State.fetchSecond]
@[simp] theorem State.fetchSecond_rB (s : State) : s.fetchSecond.2.rB = s.rB := by
  simp [State.fetchSecond]
@[simp] theorem State.fetchSecond_rC (s : State) : s.fetchSecond.2.rC = s.rC := by
  simp [State.fetchSecond]
@[simp] theorem State.fetchSecond_rD (s : State) : s.fetchSecond.2.rD = s.rD := by
  simp [State.fetchSecond]
@[simp] theorem State.fetchSecond_rE (s : State) : s.fetchSecond.2.rE = s.rE := by
  simp [State.fetchSecond]
@[simp] theorem State.fetchSecond_rH (s : State) : s.fetchSecond.2.rH = s.rH := by
  simp [State.fetchSecond]
@[simp] theorem State.fetchSecond_rL (s : State) : s.fetchSecond.2.rL = s.rL := by
  simp [State.fetchSecond]
@[simp] theorem State.fetchSecond_sp (s : State) : s.fetchSecond.2.sp = s.sp := by
  simp [State.fetchSecond]
@[simp] theorem State.fetchSecond_fC (s : State) : s.fetchSecond.2.fC = s.fC := by
  simp [State.fetchSecond]
@[simp] theorem State.fetchSecond_fZ (s : State) : s.fetchSecond.2.fZ = s.fZ := by
  simp [State.fetchSecond]
@[simp] theorem State.fetchSecond_fS (s : State) : s.fetchSecond.2.fS = s.fS := by
  simp [State.fetchSecond]
@[simp] theorem State.fetchSecond_fP (s : State) : s.fetchSecond.2.fP = s.fP := by
  simp [State.fetchSecond]
@[simp] theorem State.fetchSecond_ir (s : State) : s.fetchSecond.2.ir = s.ir := by
  simp [State.fetchSecond]
@[simp] theorem State.fetchSecond_tmpA (s : State) : s.fetchSecond.2.tmpA = s.tmpA := by
  simp [State.fetchSecond]
@[simp] theorem State.fetchSecond_stopped (s : State) : s.fetchSecond.2.stopped = s.stopped := by
  simp [State.fetchSecond]
@[simp] theorem State.fetchSecond_tstate (s : State) : s.fetchSecond.2.tstate = s.tstate := by
  simp [State.fetchSecond]
@[simp] theorem State.fetchSecond_cycle (s : State) : s.fetchSecond.2.cycle = s.cycle := by
  simp [State.fetchSecond]
@[simp] theorem State.fetchSecond_mem (s : State) : s.fetchSecond.2.mem = s.mem := by
  simp [State.fetchSecond]
@[simp] theorem State.fetchSecond_memMap (s : State) : s.fetchSecond.2.memMap = s.memMap := by
  simp [State.fetchSecond]
@[simp] theorem State.fetchSecond_interrupts (s : State) : s.fetchSecond.2.interrupts = s.interrupts := by
  simp [State.fetchSecond]
@[simp] theorem State.fetchSecond_offersDrawn (s : State) : s.fetchSecond.2.offersDrawn = s.offersDrawn := by
  simp [State.fetchSecond]
@[simp] theorem State.fetchSecond_inputs (s : State) : s.fetchSecond.2.inputs = s.inputs := by
  simp [State.fetchSecond]
@[simp] theorem State.fetchSecond_testBus (s : State) : s.fetchSecond.2.testBus = s.testBus := by
  simp [State.fetchSecond]
@[simp] theorem State.fetchSecond_states (s : State) : s.fetchSecond.2.states = s.states := by
  simp [State.fetchSecond]
@[simp] theorem State.fetchSecond_reg (s : State) (r : Reg) : s.fetchSecond.2.reg r = s.reg r := by
  cases r <;> simp
@[simp] theorem State.fetchSecond_cond (s : State) (c : Cond) : s.fetchSecond.2.cond c = s.cond c := by
  cases c <;> simp
@[simp] theorem State.fetchSecond_kindAt (s : State) (x : Addr) : s.fetchSecond.2.kindAt x = s.kindAt x := by
  simp [State.kindAt]

/-! ## `fetchThird` -/
@[simp] theorem State.fetchThird_rA (s : State) : s.fetchThird.2.rA = s.rA := by
  simp [State.fetchThird]
@[simp] theorem State.fetchThird_rB (s : State) : s.fetchThird.2.rB = s.rB := by
  simp [State.fetchThird]
@[simp] theorem State.fetchThird_rC (s : State) : s.fetchThird.2.rC = s.rC := by
  simp [State.fetchThird]
@[simp] theorem State.fetchThird_rD (s : State) : s.fetchThird.2.rD = s.rD := by
  simp [State.fetchThird]
@[simp] theorem State.fetchThird_rE (s : State) : s.fetchThird.2.rE = s.rE := by
  simp [State.fetchThird]
@[simp] theorem State.fetchThird_rH (s : State) : s.fetchThird.2.rH = s.rH := by
  simp [State.fetchThird]
@[simp] theorem State.fetchThird_rL (s : State) : s.fetchThird.2.rL = s.rL := by
  simp [State.fetchThird]
@[simp] theorem State.fetchThird_sp (s : State) : s.fetchThird.2.sp = s.sp := by
  simp [State.fetchThird]
@[simp] theorem State.fetchThird_fC (s : State) : s.fetchThird.2.fC = s.fC := by
  simp [State.fetchThird]
@[simp] theorem State.fetchThird_fZ (s : State) : s.fetchThird.2.fZ = s.fZ := by
  simp [State.fetchThird]
@[simp] theorem State.fetchThird_fS (s : State) : s.fetchThird.2.fS = s.fS := by
  simp [State.fetchThird]
@[simp] theorem State.fetchThird_fP (s : State) : s.fetchThird.2.fP = s.fP := by
  simp [State.fetchThird]
@[simp] theorem State.fetchThird_ir (s : State) : s.fetchThird.2.ir = s.ir := by
  simp [State.fetchThird]
@[simp] theorem State.fetchThird_tmpB (s : State) : s.fetchThird.2.tmpB = s.tmpB := by
  simp [State.fetchThird]
@[simp] theorem State.fetchThird_stopped (s : State) : s.fetchThird.2.stopped = s.stopped := by
  simp [State.fetchThird]
@[simp] theorem State.fetchThird_tstate (s : State) : s.fetchThird.2.tstate = s.tstate := by
  simp [State.fetchThird]
@[simp] theorem State.fetchThird_cycle (s : State) : s.fetchThird.2.cycle = s.cycle := by
  simp [State.fetchThird]
@[simp] theorem State.fetchThird_mem (s : State) : s.fetchThird.2.mem = s.mem := by
  simp [State.fetchThird]
@[simp] theorem State.fetchThird_memMap (s : State) : s.fetchThird.2.memMap = s.memMap := by
  simp [State.fetchThird]
@[simp] theorem State.fetchThird_interrupts (s : State) : s.fetchThird.2.interrupts = s.interrupts := by
  simp [State.fetchThird]
@[simp] theorem State.fetchThird_offersDrawn (s : State) : s.fetchThird.2.offersDrawn = s.offersDrawn := by
  simp [State.fetchThird]
@[simp] theorem State.fetchThird_inputs (s : State) : s.fetchThird.2.inputs = s.inputs := by
  simp [State.fetchThird]
@[simp] theorem State.fetchThird_testBus (s : State) : s.fetchThird.2.testBus = s.testBus := by
  simp [State.fetchThird]
@[simp] theorem State.fetchThird_states (s : State) : s.fetchThird.2.states = s.states := by
  simp [State.fetchThird]
@[simp] theorem State.fetchThird_reg (s : State) (r : Reg) : s.fetchThird.2.reg r = s.reg r := by
  cases r <;> simp
@[simp] theorem State.fetchThird_cond (s : State) (c : Cond) : s.fetchThird.2.cond c = s.cond c := by
  cases c <;> simp
@[simp] theorem State.fetchThird_kindAt (s : State) (x : Addr) : s.fetchThird.2.kindAt x = s.kindAt x := by
  simp [State.kindAt]

/-! ## `fetchInstr` -/
@[simp] theorem State.fetchInstr_rA (s : State) : s.fetchInstr.2.rA = s.rA := by
  cases h : insnSize s.fetchOpcode.1 <;> simp [State.fetchInstr, h]
@[simp] theorem State.fetchInstr_rB (s : State) : s.fetchInstr.2.rB = s.rB := by
  cases h : insnSize s.fetchOpcode.1 <;> simp [State.fetchInstr, h]
@[simp] theorem State.fetchInstr_rC (s : State) : s.fetchInstr.2.rC = s.rC := by
  cases h : insnSize s.fetchOpcode.1 <;> simp [State.fetchInstr, h]
@[simp] theorem State.fetchInstr_rD (s : State) : s.fetchInstr.2.rD = s.rD := by
  cases h : insnSize s.fetchOpcode.1 <;> simp [State.fetchInstr, h]
@[simp] theorem State.fetchInstr_rE (s : State) : s.fetchInstr.2.rE = s.rE := by
  cases h : insnSize s.fetchOpcode.1 <;> simp [State.fetchInstr, h]
@[simp] theorem State.fetchInstr_rH (s : State) : s.fetchInstr.2.rH = s.rH := by
  cases h : insnSize s.fetchOpcode.1 <;> simp [State.fetchInstr, h]
@[simp] theorem State.fetchInstr_rL (s : State) : s.fetchInstr.2.rL = s.rL := by
  cases h : insnSize s.fetchOpcode.1 <;> simp [State.fetchInstr, h]
@[simp] theorem State.fetchInstr_sp (s : State) : s.fetchInstr.2.sp = s.sp := by
  cases h : insnSize s.fetchOpcode.1 <;> simp [State.fetchInstr, h]
@[simp] theorem State.fetchInstr_fC (s : State) : s.fetchInstr.2.fC = s.fC := by
  cases h : insnSize s.fetchOpcode.1 <;> simp [State.fetchInstr, h]
@[simp] theorem State.fetchInstr_fZ (s : State) : s.fetchInstr.2.fZ = s.fZ := by
  cases h : insnSize s.fetchOpcode.1 <;> simp [State.fetchInstr, h]
@[simp] theorem State.fetchInstr_fS (s : State) : s.fetchInstr.2.fS = s.fS := by
  cases h : insnSize s.fetchOpcode.1 <;> simp [State.fetchInstr, h]
@[simp] theorem State.fetchInstr_fP (s : State) : s.fetchInstr.2.fP = s.fP := by
  cases h : insnSize s.fetchOpcode.1 <;> simp [State.fetchInstr, h]
@[simp] theorem State.fetchInstr_stopped (s : State) : s.fetchInstr.2.stopped = s.stopped := by
  cases h : insnSize s.fetchOpcode.1 <;> simp [State.fetchInstr, h]
@[simp] theorem State.fetchInstr_tstate (s : State) : s.fetchInstr.2.tstate = s.tstate := by
  cases h : insnSize s.fetchOpcode.1 <;> simp [State.fetchInstr, h]
@[simp] theorem State.fetchInstr_cycle (s : State) : s.fetchInstr.2.cycle = s.cycle := by
  cases h : insnSize s.fetchOpcode.1 <;> simp [State.fetchInstr, h]
@[simp] theorem State.fetchInstr_mem (s : State) : s.fetchInstr.2.mem = s.mem := by
  cases h : insnSize s.fetchOpcode.1 <;> simp [State.fetchInstr, h]
@[simp] theorem State.fetchInstr_memMap (s : State) : s.fetchInstr.2.memMap = s.memMap := by
  cases h : insnSize s.fetchOpcode.1 <;> simp [State.fetchInstr, h]
@[simp] theorem State.fetchInstr_interrupts (s : State) : s.fetchInstr.2.interrupts = s.interrupts := by
  cases h : insnSize s.fetchOpcode.1 <;> simp [State.fetchInstr, h]
@[simp] theorem State.fetchInstr_offersDrawn (s : State) : s.fetchInstr.2.offersDrawn = s.offersDrawn := by
  cases h : insnSize s.fetchOpcode.1 <;> simp [State.fetchInstr, h]
@[simp] theorem State.fetchInstr_inputs (s : State) : s.fetchInstr.2.inputs = s.inputs := by
  cases h : insnSize s.fetchOpcode.1 <;> simp [State.fetchInstr, h]
@[simp] theorem State.fetchInstr_testBus (s : State) : s.fetchInstr.2.testBus = s.testBus := by
  cases h : insnSize s.fetchOpcode.1 <;> simp [State.fetchInstr, h]
@[simp] theorem State.fetchInstr_states (s : State) : s.fetchInstr.2.states = s.states := by
  cases h : insnSize s.fetchOpcode.1 <;> simp [State.fetchInstr, h]
@[simp] theorem State.fetchInstr_reg (s : State) (r : Reg) : s.fetchInstr.2.reg r = s.reg r := by
  cases r <;> simp
@[simp] theorem State.fetchInstr_cond (s : State) (c : Cond) : s.fetchInstr.2.cond c = s.cond c := by
  cases c <;> simp
@[simp] theorem State.fetchInstr_kindAt (s : State) (x : Addr) : s.fetchInstr.2.kindAt x = s.kindAt x := by
  simp [State.kindAt]

/-! ## `nextOffer` -/
@[simp] theorem State.nextOffer_rA (s : State) : s.nextOffer.2.rA = s.rA := by
  simp [State.nextOffer_snd, State.afterOffers]
@[simp] theorem State.nextOffer_rB (s : State) : s.nextOffer.2.rB = s.rB := by
  simp [State.nextOffer_snd, State.afterOffers]
@[simp] theorem State.nextOffer_rC (s : State) : s.nextOffer.2.rC = s.rC := by
  simp [State.nextOffer_snd, State.afterOffers]
@[simp] theorem State.nextOffer_rD (s : State) : s.nextOffer.2.rD = s.rD := by
  simp [State.nextOffer_snd, State.afterOffers]
@[simp] theorem State.nextOffer_rE (s : State) : s.nextOffer.2.rE = s.rE := by
  simp [State.nextOffer_snd, State.afterOffers]
@[simp] theorem State.nextOffer_rH (s : State) : s.nextOffer.2.rH = s.rH := by
  simp [State.nextOffer_snd, State.afterOffers]
@[simp] theorem State.nextOffer_rL (s : State) : s.nextOffer.2.rL = s.rL := by
  simp [State.nextOffer_snd, State.afterOffers]
@[simp] theorem State.nextOffer_stk (s : State) : s.nextOffer.2.stk = s.stk := by
  simp [State.nextOffer_snd, State.afterOffers]
@[simp] theorem State.nextOffer_sp (s : State) : s.nextOffer.2.sp = s.sp := by
  simp [State.nextOffer_snd, State.afterOffers]
@[simp] theorem State.nextOffer_fC (s : State) : s.nextOffer.2.fC = s.fC := by
  simp [State.nextOffer_snd, State.afterOffers]
@[simp] theorem State.nextOffer_fZ (s : State) : s.nextOffer.2.fZ = s.fZ := by
  simp [State.nextOffer_snd, State.afterOffers]
@[simp] theorem State.nextOffer_fS (s : State) : s.nextOffer.2.fS = s.fS := by
  simp [State.nextOffer_snd, State.afterOffers]
@[simp] theorem State.nextOffer_fP (s : State) : s.nextOffer.2.fP = s.fP := by
  simp [State.nextOffer_snd, State.afterOffers]
@[simp] theorem State.nextOffer_ir (s : State) : s.nextOffer.2.ir = s.ir := by
  simp [State.nextOffer_snd, State.afterOffers]
@[simp] theorem State.nextOffer_tmpA (s : State) : s.nextOffer.2.tmpA = s.tmpA := by
  simp [State.nextOffer_snd, State.afterOffers]
@[simp] theorem State.nextOffer_tmpB (s : State) : s.nextOffer.2.tmpB = s.tmpB := by
  simp [State.nextOffer_snd, State.afterOffers]
@[simp] theorem State.nextOffer_stopped (s : State) : s.nextOffer.2.stopped = s.stopped := by
  simp [State.nextOffer_snd, State.afterOffers]
@[simp] theorem State.nextOffer_tstate (s : State) : s.nextOffer.2.tstate = s.tstate := by
  simp [State.nextOffer_snd, State.afterOffers]
@[simp] theorem State.nextOffer_cycle (s : State) : s.nextOffer.2.cycle = s.cycle := by
  simp [State.nextOffer_snd, State.afterOffers]
@[simp] theorem State.nextOffer_mem (s : State) : s.nextOffer.2.mem = s.mem := by
  simp [State.nextOffer_snd, State.afterOffers]
@[simp] theorem State.nextOffer_memMap (s : State) : s.nextOffer.2.memMap = s.memMap := by
  simp [State.nextOffer_snd, State.afterOffers]
@[simp] theorem State.nextOffer_inputs (s : State) : s.nextOffer.2.inputs = s.inputs := by
  simp [State.nextOffer_snd, State.afterOffers]
@[simp] theorem State.nextOffer_draws (s : State) : s.nextOffer.2.draws = s.draws := by
  simp [State.nextOffer_snd, State.afterOffers]
@[simp] theorem State.nextOffer_events (s : State) : s.nextOffer.2.events = s.events := by
  simp [State.nextOffer_snd, State.afterOffers]
@[simp] theorem State.nextOffer_testBus (s : State) : s.nextOffer.2.testBus = s.testBus := by
  simp [State.nextOffer_snd, State.afterOffers]
@[simp] theorem State.nextOffer_states (s : State) : s.nextOffer.2.states = s.states := by
  simp [State.nextOffer_snd, State.afterOffers]
@[simp] theorem State.nextOffer_reg (s : State) (r : Reg) : s.nextOffer.2.reg r = s.reg r := by
  cases r <;> simp
@[simp] theorem State.nextOffer_cond (s : State) (c : Cond) : s.nextOffer.2.cond c = s.cond c := by
  cases c <;> simp
@[simp] theorem State.nextOffer_kindAt (s : State) (x : Addr) : s.nextOffer.2.kindAt x = s.kindAt x := by
  simp [State.kindAt]

/-! ## What a fetch answers and changes -/

/-- A fetch of one byte moves PC on by one (R27, R28). -/
@[simp] theorem State.fetchByte_pc (s : State) (k : ReadKind) : (s.fetchByte k).2.pc = s.pc + 1 := by
  simp [State.fetchByte]

/-- A fetch of one byte writes no stack entry but PC. -/
theorem State.fetchByte_entry (s : State) (k : ReadKind) (n : Fin 8) (h : n ≠ s.sp) :
    (s.fetchByte k).2.stk[n] = s.stk[n] := by
  have hn : n ≠ (s.memRead k s.pc).2.sp := by simpa using h
  calc (s.fetchByte k).2.stk[n] = (s.memRead k s.pc).2.stk[n] := State.setPc_entry _ _ n hn
    _ = s.stk[n] := by simp

/-- The byte of a fetch is the byte read at PC. -/
theorem State.fetchByte_fst (s : State) (k : ReadKind) : (s.fetchByte k).1 = (s.memRead k s.pc).1 := rfl

/-- Where there is memory at PC, a fetch answers the byte held, adds its event and draws nothing. -/
theorem State.fetchByte_memory (s : State) (k : ReadKind) (h : s.HasMemory s.pc) :
    s.fetchByte k = (s.mem.read s.pc.toNat, (s.log (.read k s.pc)).setPc (s.pc + 1)) := by
  simp [State.fetchByte, State.memRead_memory s k s.pc h]

/-- Memory at an address does not depend on what a fetch changes. -/
theorem State.hasMemory_congr (s t : State) (a : Addr) (h : t.memMap = s.memMap) : t.HasMemory a ↔ s.HasMemory a := by
  simp [State.HasMemory, State.kindAt, h]

@[simp] theorem State.fetchOpcode_pc (s : State) : s.fetchOpcode.2.pc = s.pc + 1 := State.fetchByte_pc s .pci
@[simp] theorem State.fetchSecond_pc (s : State) : s.fetchSecond.2.pc = s.pc + 1 := State.fetchByte_pc s .pcr
@[simp] theorem State.fetchThird_pc (s : State) : s.fetchThird.2.pc = s.pc + 1 := State.fetchByte_pc s .pcr
@[simp] theorem State.fetchOpcode_ir (s : State) : s.fetchOpcode.2.ir = s.fetchOpcode.1 := rfl
@[simp] theorem State.fetchOpcode_tmpB (s : State) : s.fetchOpcode.2.tmpB = s.fetchOpcode.1 := rfl
@[simp] theorem State.fetchSecond_tmpB (s : State) : s.fetchSecond.2.tmpB = s.fetchSecond.1 := rfl
@[simp] theorem State.fetchThird_tmpA (s : State) : s.fetchThird.2.tmpA = s.fetchThird.1 := rfl

/-- The instruction a whole fetch answers is read by the decoder from its first byte, which it leaves in IR. -/
theorem State.fetchInstr_ir (s : State) : ∃ b2 b3, s.fetchInstr.1 = decodeOp s.fetchInstr.2.ir b2 b3 := by
  cases h : insnSize s.fetchOpcode.1
  · exact ⟨0, 0, by simp [State.fetchInstr, h]⟩
  · exact ⟨s.fetchOpcode.2.fetchSecond.1, 0, by simp [State.fetchInstr, h]⟩
  · exact ⟨s.fetchOpcode.2.fetchSecond.1, s.fetchOpcode.2.fetchSecond.2.fetchThird.1, by simp [State.fetchInstr, h]⟩

/-! ## The cases of a step -/

/-- A step is one of three: a jammed instruction, nothing in the stopped state, or a fetched instruction (R239). -/
theorem step_cases (s : State) :
    (∃ op, s.nextOffer.1 = some op ∧ step s = runJammed op s.nextOffer.2) ∨
      (s.nextOffer.1 = none ∧ s.stopped = true ∧ step s = .next s.nextOffer.2) ∨
      (s.nextOffer.1 = none ∧ s.stopped = false ∧ step s = exec s.nextOffer.2.fetchInstr.1 s.nextOffer.2.fetchInstr.2) := by
  have hs : s.nextOffer.2.stopped = s.stopped := by simp
  cases ho : s.nextOffer with
  | mk o s1 =>
    rw [ho] at hs
    cases o with
    | some op => exact .inl ⟨op, rfl, by simp [step, ho]⟩
    | none =>
      cases hst : s.stopped with
      | true =>
        have h1 : s1.stopped = true := hs.trans hst
        exact .inr (.inl ⟨rfl, rfl, by simp [step, ho, h1, runStopped]⟩)
      | false =>
        have h1 : s1.stopped = false := hs.trans hst
        exact .inr (.inr ⟨rfl, rfl, by simp [step, ho, h1, runFetched]⟩)

/-- A jammed byte runs its instruction when it is one byte long and is refused otherwise (R238, R239). -/
theorem runJammed_cases (op : Byte) (s : State) :
    (insnSize op = .one ∧ runJammed op s = exec (decodeOp op 0 0) (s.acceptInterrupt op)) ∨
      (insnSize op ≠ .one ∧ runJammed op s = .refused (.multiByteJam op)) := by
  cases h : insnSize op <;> simp [runJammed, h]

end Sys2Proof.Machine
end

