-- ==== Sys2Proof/Tests/Slice0.lean ====
section
/-!
SUPPORT. Tests. The words are written out bit by bit from the encoding tables of spec/30_encoding.md; the expected results of
the one-step tests are those of the vectors V<n> of spec/95_test_vectors.md; the witnesses show that the hypotheses of the
obligations can be met together.
-/

namespace Sys2Proof.Tests

open Sys2Proof.Machine

/-! ## Well-formedness: each check refuses its ill-formed terms -/

theorem test_inr_of_A_is_ill_formed : Instr.wellFormed (.inr .A) = false := by decide
theorem test_dcr_of_A_is_ill_formed : Instr.wellFormed (.dcr .A) = false := by decide
theorem test_out_to_an_input_port_is_ill_formed : Instr.wellFormed (.out 0 5) = false := by decide
theorem witness_DecodeOfEncodeIsTheInstruction :
    Instr.wellFormed (.inr .B) = true ∧ Instr.wellFormed (.dcr .L) = true ∧ Instr.wellFormed (.out 1 0) = true ∧
      Instr.wellFormed (.out 3 7) = true ∧ Instr.wellFormed (.jmp 0x3FFF) = true := by decide

/-! ## Decoding: one word for each constructor -/

theorem test_decode_lr1r2 : decode [0b11_001_010] = .ok (.lr1r2 .B .C, []) := by rfl
theorem test_decode_lrM : decode [0b11_110_111] = .ok (.lrM .L, []) := by rfl
theorem test_decode_lMr : decode [0b11_111_000] = .ok (.lMr .A, []) := by rfl
theorem test_decode_lrI : decode [0b00_101_110, 0x3F] = .ok (.lrI .H 0x3F, []) := by rfl
theorem test_decode_lMI : decode [0b00_111_110, 0xC0] = .ok (.lMI 0xC0, []) := by rfl
theorem test_decode_inr : decode [0b00_001_000] = .ok (.inr .B, []) := by rfl
theorem test_decode_dcr : decode [0b00_110_001] = .ok (.dcr .L, []) := by rfl
theorem test_decode_adr : decode [0b10_000_000] = .ok (.adr .A, []) := by rfl
theorem test_decode_adm : decode [0b10_000_111] = .ok (.adm, []) := by rfl
theorem test_decode_adi : decode [0b00_000_100, 0x10] = .ok (.adi 0x10, []) := by rfl
theorem test_decode_acr : decode [0b10_001_001] = .ok (.acr .B, []) := by rfl
theorem test_decode_acm : decode [0b10_001_111] = .ok (.acm, []) := by rfl
theorem test_decode_aci : decode [0b00_001_100, 0x11] = .ok (.aci 0x11, []) := by rfl
theorem test_decode_sur : decode [0b10_010_010] = .ok (.sur .C, []) := by rfl
theorem test_decode_sum : decode [0b10_010_111] = .ok (.sum, []) := by rfl
theorem test_decode_sui : decode [0b00_010_100, 0x12] = .ok (.sui 0x12, []) := by rfl
theorem test_decode_sbr : decode [0b10_011_011] = .ok (.sbr .D, []) := by rfl
theorem test_decode_sbm : decode [0b10_011_111] = .ok (.sbm, []) := by rfl
theorem test_decode_sbi : decode [0b00_011_100, 0x13] = .ok (.sbi 0x13, []) := by rfl
theorem test_decode_ndr : decode [0b10_100_100] = .ok (.ndr .E, []) := by rfl
theorem test_decode_ndm : decode [0b10_100_111] = .ok (.ndm, []) := by rfl
theorem test_decode_ndi : decode [0b00_100_100, 0x14] = .ok (.ndi 0x14, []) := by rfl
theorem test_decode_xrr : decode [0b10_101_101] = .ok (.xrr .H, []) := by rfl
theorem test_decode_xrm : decode [0b10_101_111] = .ok (.xrm, []) := by rfl
theorem test_decode_xri : decode [0b00_101_100, 0x15] = .ok (.xri 0x15, []) := by rfl
theorem test_decode_orr : decode [0b10_110_110] = .ok (.orr .L, []) := by rfl
theorem test_decode_orm : decode [0b10_110_111] = .ok (.orm, []) := by rfl
theorem test_decode_ori : decode [0b00_110_100, 0x16] = .ok (.ori 0x16, []) := by rfl
theorem test_decode_cpr : decode [0b10_111_001] = .ok (.cpr .B, []) := by rfl
theorem test_decode_cpm : decode [0b10_111_111] = .ok (.cpm, []) := by rfl
theorem test_decode_cpi : decode [0b00_111_100, 0x17] = .ok (.cpi 0x17, []) := by rfl
theorem test_decode_rlc : decode [0b00_000_010] = .ok (.rlc, []) := by rfl
theorem test_decode_rrc : decode [0b00_001_010] = .ok (.rrc, []) := by rfl
theorem test_decode_ral : decode [0b00_010_010] = .ok (.ral, []) := by rfl
theorem test_decode_rar : decode [0b00_011_010] = .ok (.rar, []) := by rfl
theorem test_decode_jmp : decode [0b01_101_100, 0x23, 0xC1] = .ok (.jmp 0x0123, []) := by rfl
theorem test_decode_jfc : decode [0b01_001_000, 0x10, 0x00] = .ok (.jfc .Z 0x0010, []) := by rfl
theorem test_decode_jtc : decode [0b01_111_000, 0x40, 0x00] = .ok (.jtc .P 0x0040, []) := by rfl
theorem test_decode_cal : decode [0b01_000_110, 0xFF, 0x3F] = .ok (.cal 0x3FFF, []) := by rfl
theorem test_decode_cfc : decode [0b01_000_010, 0x00, 0x02] = .ok (.cfc .C 0x0200, []) := by rfl
theorem test_decode_ctc : decode [0b01_110_010, 0x00, 0x10] = .ok (.ctc .S 0x1000, []) := by rfl
theorem test_decode_ret : decode [0b00_010_111] = .ok (.ret, []) := by rfl
theorem test_decode_rfc : decode [0b00_011_011] = .ok (.rfc .P, []) := by rfl
theorem test_decode_rtc : decode [0b00_100_011] = .ok (.rtc .C, []) := by rfl
theorem test_decode_rst : decode [0b00_011_101] = .ok (.rst 3, []) := by rfl
theorem test_decode_inp : decode [0b01_001_111] = .ok (.inp 7, []) := by rfl
theorem test_decode_out : decode [0b01_100_011] = .ok (.out 2 1, []) := by rfl
theorem test_decode_hlt : decode [0b00_000_001] = .ok (.hlt, []) := by rfl
theorem test_decode_hltFF : decode [0b11_111_111] = .ok (.hltFF, []) := by rfl
theorem test_decode_unspecRotate : decode [0b00_110_010] = .ok (.unspecRotate 2, []) := by rfl
theorem test_decode_unspec38 : decode [0b00_111_000] = .ok (.unspec38, []) := by rfl
theorem test_decode_unspec39 : decode [0b00_111_001] = .ok (.unspec39, []) := by rfl
theorem test_decode_table_word : decodeTableWord 24 0xC12344 = some (.jmp 0x0123) := by decide
theorem test_decode_short_table_word : decodeTableWord 8 0x44 = some (.jmp 0) := by decide
theorem test_decode_rejects_a_short_list :
    decode [] = .error .noBytes ∧ decode [0x06] = .error (.truncated 0x06) ∧
      decode [0x44, 0x00] = .error (.truncated 0x44) := ⟨rfl, rfl, rfl⟩

/-! ## One step of each instruction -/

/-- The next state of a step, where it answers one. -/
def nextOf : Host.Outcome State Fault Refusal → Option State
  | .next t => some t
  | .fault _ => none
  | .refused _ => none

/-- The base state of the vectors: running, PC at 0x0100, no interrupt at the next boundary. -/
def base : State :=
  { State.reset with stopped := false, tstate := .T1, stk := #v[0x0100, 0, 0, 0, 0, 0, 0, 0], interrupts := [none] }

/-- The base state with H and L pointing at a byte of memory. -/
def withM (h l : Byte) (a : Nat) (v : Byte) : State := { base with rH := h, rL := l, mem := [(a, v)] }

/-- The base state with PC, SP and one more stack entry as given. -/
def withStack (sp : Fin 8) (pc : Addr) (other : Fin 8) (entry : Addr) : State :=
  { base with sp := sp, stk := (#v[0, 0, 0, 0, 0, 0, 0, 0].set other entry).set sp pc }

/-- The state after the step that fetches and runs a table word. -/
def after (s : State) (nbits w : Nat) : Option State := nextOf (step (s.withFetchWord nbits w))

/-- A and the four flags. -/
def accAndFlags (t : State) : Byte × Bool × Bool × Bool × Bool := (t.rA, t.fC, t.fZ, t.fS, t.fP)

/-- SP, PC, one stack entry and the states counted. -/
def stackView (k : Fin 8) (t : State) : Fin 8 × Addr × Addr × Nat := (t.sp, t.pc, t.stk[k], t.states)

theorem test_lr1r2 :  -- V1
    (after { base with rB := 0x5A } 8 0xC1).map (fun t => (t.rA, t.rB, t.pc, t.states)) = some (0x5A, 0x5A, 0x0101, 5) := by decide
theorem test_lrM_ignores_the_high_bits_of_H :  -- V6
    (after (withM 0xC1 0x20 0x0120 0x77) 8 0xC7).map (fun t => (t.rA, t.states)) = some (0x77, 8) := by decide
theorem test_lrM_forms_the_address_first :  -- V7
    (after (withM 0x02 0x10 0x0210 0x3F) 8 0xEF).map (fun t => t.rH) = some 0x3F := by decide
theorem test_lMr :  -- V11
    (after { base with rH := 0xC3, rL := 0x05 } 8 0xFD).map (fun t => (t.mem.read 0x0305, t.states)) = some (0xC3, 7) := by decide
theorem test_lrI :  -- V13
    (after { base with fZ := true } 16 0xFF06).map (fun t => (t.rA, t.fZ, t.pc, t.states)) = some (0xFF, true, 0x0102, 8) := by decide
theorem test_lMI_over_its_own_first_byte :  -- V15
    (after { base with stk := #v[0x0200, 0, 0, 0, 0, 0, 0, 0], rH := 0x02 } 16 0xC03E).map (fun t => (t.mem.read 0x0200, t.pc, t.states)) = some (0xC0, 0x0202, 9) := by decide
theorem test_inr_keeps_the_carry :  -- V18
    (after { base with rB := 0xFF, fC := true } 8 0x08).map (fun t => (t.rB, t.fC, t.fZ, t.fS, t.fP)) = some (0x00, true, true, false, true) := by decide
theorem test_inr_of_L_leaves_H :  -- V20
    (after { base with rH := 0x01, rL := 0xFF } 8 0x30).map (fun t => (t.rH, t.rL, t.fC)) = some (0x01, 0x00, false) := by decide
theorem test_dcr_wraps :  -- V22
    (after base 8 0x09).map (fun t => (t.rB, t.fC, t.fZ, t.fS, t.fP)) = some (0xFF, false, false, true, true) := by decide
theorem test_adr :  -- V28
    (after { base with rA := 0x3A, rB := 0xC6, fC := false } 8 0x81).map accAndFlags = some (0x00, true, true, false, true) := by decide
theorem test_adr_ignores_the_carry :  -- V32
    (after { base with rA := 0x01, rB := 0x01, fC := true } 8 0x81).map accAndFlags = some (0x02, false, false, false, false) := by decide
theorem test_adm :  -- V29
    (after { withM 0x00 0x40 0x0040 0x22 with rA := 0x10, fC := false } 8 0x87).map accAndFlags = some (0x32, false, false, false, false) := by decide
theorem test_adi :  -- V30
    (after { base with rA := 0x7F, fC := false } 16 0x0104).map accAndFlags = some (0x80, false, false, true, false) := by decide
theorem test_acr :  -- V33
    (after { base with rA := 0x01, rB := 0x01, fC := true } 8 0x89).map accAndFlags = some (0x03, false, false, false, true) := by decide
theorem test_acm :  -- V34
    (after { withM 0x00 0x40 0x0040 0x00 with rA := 0xFF, fC := true } 8 0x8F).map accAndFlags = some (0x00, true, true, false, true) := by decide
theorem test_aci :  -- V36
    (after { base with rA := 0xFF, fC := true } 16 0xFF0C).map accAndFlags = some (0xFF, true, false, true, true) := by decide
theorem test_sur :  -- V37
    (after { base with rA := 0x05, rB := 0x06, fC := false } 8 0x91).map accAndFlags = some (0xFF, true, false, true, true) := by decide
theorem test_sum :  -- V38
    (after { withM 0x00 0x40 0x0040 0x50 with rA := 0x50, fC := false } 8 0x97).map accAndFlags = some (0x00, false, true, false, true) := by decide
theorem test_sui :  -- V39
    (after { base with rA := 0x80, fC := false } 16 0x0114).map accAndFlags = some (0x7F, false, false, false, false) := by decide
theorem test_sbr :  -- V42
    (after { base with rA := 0x10, rB := 0x0F, fC := true } 8 0x99).map accAndFlags = some (0x00, false, true, false, true) := by decide
theorem test_sbm :  -- V43
    (after { withM 0x00 0x40 0x0040 0xFF with rA := 0x00, fC := true } 8 0x9F).map accAndFlags = some (0x00, true, true, false, true) := by decide
theorem test_sbi :  -- V44
    (after { base with rA := 0x00, fC := true } 16 0x001C).map accAndFlags = some (0xFF, true, false, true, true) := by decide
theorem test_ndr :  -- V47
    (after { base with rA := 0xF0, rB := 0x3C, fC := true } 8 0xA1).map accAndFlags = some (0x30, false, false, false, true) := by decide
theorem test_ndm :  -- V48
    (after { withM 0x00 0x40 0x0040 0xF0 with rA := 0x0F, fC := false } 8 0xA7).map accAndFlags = some (0x00, false, true, false, true) := by decide
theorem test_ndi :  -- V49
    (after { base with rA := 0xFF, fC := true } 16 0x8024).map accAndFlags = some (0x80, false, false, true, false) := by decide
theorem test_xrr :  -- V51
    (after { base with rA := 0x5D, rB := 0x00, fC := true } 8 0xA8).map accAndFlags = some (0x00, false, true, false, true) := by decide
theorem test_xrm :  -- V52
    (after { withM 0x00 0x40 0x0040 0xFF with rA := 0xAA, fC := false } 8 0xAF).map accAndFlags = some (0x55, false, false, false, true) := by decide
theorem test_xri :  -- V53
    (after { base with rA := 0x0F, fC := false } 16 0xFF2C).map accAndFlags = some (0xF0, false, false, true, true) := by decide
theorem test_orr :  -- V54
    (after { base with rA := 0x01, rB := 0x80, fC := false } 8 0xB1).map accAndFlags = some (0x81, false, false, true, true) := by decide
theorem test_orm :  -- V55
    (after { withM 0x00 0x40 0x0040 0x00 with rA := 0x00, fC := true } 8 0xB7).map accAndFlags = some (0x00, false, true, false, true) := by decide
theorem test_ori :  -- V56
    (after { base with rA := 0x10, fC := false } 16 0x0734).map accAndFlags = some (0x17, false, false, false, true) := by decide
theorem test_cpr :  -- V58
    (after { base with rA := 0x05, rB := 0x05, fC := false } 8 0xB9).map accAndFlags = some (0x05, false, true, false, true) := by decide
theorem test_cpm :  -- V59
    (after { withM 0x00 0x40 0x0040 0x06 with rA := 0x05, fC := false } 8 0xBF).map accAndFlags = some (0x05, true, false, true, true) := by decide
theorem test_cpi :  -- V62
    (after { base with rA := 0x7F, fC := false } 16 0x803C).map accAndFlags = some (0x7F, true, false, true, true) := by decide
theorem test_rlc_keeps_zero_sign_and_parity :  -- V64
    (after { base with rA := 0x40, fC := true, fZ := true, fP := true } 8 0x02).map accAndFlags = some (0x80, false, true, false, true) := by decide
theorem test_rlc :  -- V63
    (after { base with rA := 0x81 } 8 0x02).map accAndFlags = some (0x03, true, false, false, false) := by decide
theorem test_rrc :  -- V65
    (after { base with rA := 0x81 } 8 0x0A).map accAndFlags = some (0xC0, true, false, false, false) := by decide
theorem test_ral :  -- V67
    (after { base with rA := 0x81 } 8 0x12).map accAndFlags = some (0x02, true, false, false, false) := by decide
theorem test_ral_takes_the_carry_in :  -- V68
    (after { base with fC := true } 8 0x12).map accAndFlags = some (0x01, false, false, false, false) := by decide
theorem test_rar :  -- V69
    (after { base with rA := 0x81 } 8 0x1A).map accAndFlags = some (0x40, true, false, false, false) := by decide
theorem test_rar_takes_the_carry_in :  -- V70
    (after { base with fC := true } 8 0x1A).map accAndFlags = some (0x80, false, false, false, false) := by decide
theorem test_jmp_drops_the_high_bits :  -- V77, R180
    (after base 24 0xC10044).map (fun t => (t.pc, t.testBus, t.states)) = some (0x0100, [⟨.three, .T5, 0x00⟩, ⟨.three, .T4, 0xC1⟩], 11) := by decide
theorem test_jmp_fetched_around_the_top :  -- V85
    (after (withStack 0 0x3FFE 1 0) 24 0x000044).map (fun t => (t.pc, t.mem.read 0x3FFE)) = some (0x0000, 0x44) := by decide
theorem test_jfc_taken :  -- V78
    (after (withStack 0 0x0020 1 0) 24 0x001048).map (fun t => (t.pc, t.states)) = some (0x0010, 11) := by decide
theorem test_jfc_not_taken :  -- V79, R182
    (after { withStack 0 0x0020 1 0 with fZ := true } 24 0x001048).map (fun t => (t.pc, t.testBus, t.states)) = some (0x0023, [], 9) := by decide
theorem test_jtc_taken :  -- V82
    (after { base with fS := true } 24 0x004070).map (fun t => (t.pc, t.states)) = some (0x0040, 11) := by decide
theorem test_jtc_not_taken :  -- V81
    (after base 24 0x030060).map (fun t => (t.pc, t.states)) = some (0x0103, 9) := by decide
theorem test_cal :  -- V86
    (after (withStack 0 0x0010 1 0) 24 0x020046).map (stackView 0) = some (1, 0x0200, 0x0013, 11) := by decide
theorem test_cal_around_the_ring :  -- V87
    (after (withStack 7 0x0010 1 0) 24 0x020046).map (stackView 7) = some (0, 0x0200, 0x0013, 11) := by decide
theorem test_cfc_taken :  -- V88
    (after (withStack 0 0x0010 1 0) 24 0x02004A).map (stackView 0) = some (1, 0x0200, 0x0013, 11) := by decide
theorem test_cfc_not_taken :  -- V89
    (after { withStack 0 0x0010 1 0 with fZ := true } 24 0x02004A).map (stackView 1) = some (0, 0x0013, 0, 9) := by decide
theorem test_ctc_taken :  -- V90
    (after { withStack 2 0x0040 1 0 with fS := true } 24 0x100072).map (stackView 2) = some (3, 0x1000, 0x0043, 11) := by decide
theorem test_ctc_not_taken :  -- V91
    (after (withStack 2 0x0040 1 0) 24 0x100072).map (stackView 3) = some (2, 0x0043, 0, 9) := by decide
theorem test_ret :  -- V92
    (after (withStack 1 0x0205 0 0x0013) 8 0x07).map (stackView 1) = some (0, 0x0013, 0x0206, 5) := by decide
theorem test_ret_around_the_ring :  -- V94
    (after (withStack 0 0x0205 7 0) 8 0x07).map (stackView 0) = some (7, 0x0000, 0x0206, 5) := by decide
theorem test_rfc_taken :  -- V95
    (after (withStack 1 0x0205 0 0x0013) 8 0x0B).map (stackView 1) = some (0, 0x0013, 0x0206, 5) := by decide
theorem test_rfc_not_taken :  -- V96
    (after { withStack 1 0x0205 0 0x0013 with fZ := true } 8 0x0B).map (stackView 0) = some (1, 0x0206, 0x0013, 3) := by decide
theorem test_rtc_taken :  -- V99
    (after { withStack 1 0x0205 0 0x0013 with fC := true } 8 0x23).map (stackView 1) = some (0, 0x0013, 0x0206, 5) := by decide
theorem test_rtc_not_taken :  -- V98
    (after (withStack 1 0x0205 0 0x0013) 8 0x2B).map (stackView 0) = some (1, 0x0206, 0x0013, 3) := by decide
theorem test_rst :  -- V100
    (after (withStack 0 0x0150 1 0) 8 0x1D).map (stackView 0) = some (1, 0x0018, 0x0151, 5) := by decide
theorem test_rst_from_the_last_byte :  -- V102
    (after (withStack 0 0x3FFF 1 0) 8 0x3D).map (stackView 0) = some (1, 0x0038, 0x0000, 5) := by decide
theorem test_inp :  -- V103
    (after { base with rA := 0x5A, fC := true, fP := true, inputs := [0x3C] } 8 0x45).map (fun t => (t.rA, t.events.head?, t.fC, t.states)) = some (0x3C, some (.input 2 0x5A 0b1100 0x3C), true, 8) := by decide
theorem test_out :  -- V107
    (after { base with rA := 0x01 } 8 0x7F).map (fun t => (t.rA, t.events.head?, t.states)) = some (0x01, some (.output 31 0x01), 6) := by decide
theorem test_hlt :  -- V109
    (after (withStack 0 0x0012 1 0) 8 0x00).map (fun t => (t.pc, t.stopped, t.states)) = some (0x0013, true, 4) := by decide
theorem test_hltFF :  -- V110
    (after (withStack 0 0x0012 1 0) 8 0xFF).map (fun t => (t.pc, t.stopped, t.states)) = some (0x0013, true, 4) := by decide
theorem test_unspecRotate_is_refused :  -- V72
    step (base.withFetchWord 8 0x2A) = .refused (.unspecifiedOpcode 0x2A) := by rfl
theorem test_unspec38_is_refused :  -- V24
    step (base.withFetchWord 8 0x38) = .refused (.unspecifiedOpcode 0x38) := by rfl
theorem test_unspec39_is_refused :  -- V25
    step (base.withFetchWord 8 0x39) = .refused (.unspecifiedOpcode 0x39) := by rfl

/-! ## Interrupts and the stopped state -/

/-- The base state at PC 0x0013 with an interrupt that jams a byte. -/
def jamming (op : Byte) : State := { withStack 0 0x0013 1 0 with interrupts := [some op] }

/-- The machine after reset with a start-up interrupt that jams a byte. -/
def startingWith (op : Byte) : State := { State.reset with interrupts := [some op] }

theorem test_jammed_restart :  -- V111
    (nextOf (step (jamming 0x0D))).map (stackView 0) = some (1, 0x0008, 0x0013, 5) := by decide
theorem test_start_up_by_restart :  -- V112
    (nextOf (step (startingWith Config.startupJam))).map (fun t => (t.sp, t.pc, t.stopped)) =
      some (1, 0x0000, false) := by decide
theorem test_start_up_by_no_operation :  -- V113
    (nextOf (step (startingWith 0xC0))).map (fun t => (t.sp, t.pc, t.stopped)) = some (0, 0x0000, false) := by decide
theorem test_jammed_halt :  -- V114
    (nextOf (step (jamming 0x00))).map (fun t => (t.pc, t.stopped)) = some (0x0013, true) := by decide
theorem test_jammed_call_is_refused : step (jamming 0x46) = .refused (.multiByteJam 0x46) := by rfl  -- V115
theorem test_jammed_load_is_refused : step (jamming 0x06) = .refused (.multiByteJam 0x06) := by rfl  -- V116
/-- The machine after reset, the interrupting device silent at the next two boundaries and then presenting RST 0. -/
def waiting : State := { State.reset with interrupts := [none, none, some 0x05] }

theorem test_reset_stays_stopped : step waiting = .next { waiting with interrupts := [none, some 0x05] } := by rfl  -- R221
theorem test_offers_beyond_the_list_are_free :  -- R16, R232
    State.reset.offerAt 0 = Config.interruptOffer 0 ∧ waiting.offerAt 2 = some 0x05 ∧
      waiting.offerAt 4 = Config.interruptOffer 1 := ⟨rfl, rfl, rfl⟩

/-! ## The test output -/

theorem test_bus_shows_the_transfers_of_lr1r2 :  -- R111
    (after { base with rB := 0x5A } 8 0xC1).map (fun t => t.testBus) =
      some [⟨.one, .T5, 0x5A⟩, ⟨.one, .T4, 0x5A⟩] := by decide
theorem test_bus_shows_a_free_byte_in_an_idle_state :  -- R157, U13
    exec .rrc base = .next { base with
      testBus := [⟨.one, .T5, Config.testBusByte 1⟩, ⟨.one, .T4, Config.testBusByte 0⟩], states := 5 } := rfl

/-! ## Memory -/

/-- One region of each kind, and RAM where there is none. -/
def mapped : State :=
  { base with memMap := [⟨0x1000, 0x100, .rom⟩, ⟨0x2000, 0x100, .unpopulated⟩, ⟨0x3000, 0x100, .device⟩] }

theorem test_write_keeps_the_form :
    Memory.write (Memory.write (Memory.write [] 5 1) 3 2) 5 0 = [(3, 2)] := by decide
theorem test_rom_and_absent_memory_keep_a_write_out :
    (mapped.memWrite 0x10FF 1).mem = [] ∧ (mapped.memWrite 0x2000 1).mem = [] ∧ (mapped.memWrite 0x3000 1).mem = [] ∧
      (mapped.memWrite 0x1100 1).mem = [(0x1100, 1)] := by decide
theorem test_absent_memory_reads_as_a_draw :
    mapped.memRead .pcr 0x20FF = (Config.openBusByte 0, { mapped with events := [.read .pcr 0x20FF], draws := 1 }) := rfl

/-! ## Witnesses: the hypotheses of the obligations can be met -/

/-- A three-byte instruction around the top of memory, a two-byte one and a one-byte one, at PC. -/
def jumpAtTop : State := { withStack 0 0x3FFE 1 0 with mem := [(0, 0x01), (0x3FFE, 0x44), (0x3FFF, 0x23)] }
def loadAtBase : State := { base with mem := [(0x0100, 0x06), (0x0101, 0x7E)], interrupts := [none] }
def haltAtBase : State := { base with memMap := [⟨0x0100, 1, .rom⟩] }

theorem witness_StepRunsTheFetchedInstruction_three :
    jumpAtTop.stopped = false ∧ jumpAtTop.OffersNone ∧
      (∀ k : Nat, k < (insnSize 0x44).bytes →
        jumpAtTop.HasMemory (jumpAtTop.pc + BitVec.ofNat 14 k) ∧
          jumpAtTop.mem.read (jumpAtTop.pc + BitVec.ofNat 14 k).toNat = [(0x44 : Byte), 0x23, 0x01].getD k 0) ∧
      decode [0x44, 0x23, 0x01] = .ok (.jmp 0x0123, []) := ⟨by decide, by decide, by decide, rfl⟩
theorem witness_StepRunsTheFetchedInstruction_two :
    loadAtBase.stopped = false ∧ loadAtBase.OffersNone ∧
      (∀ k : Nat, k < (insnSize 0x06).bytes →
        loadAtBase.HasMemory (loadAtBase.pc + BitVec.ofNat 14 k) ∧
          loadAtBase.mem.read (loadAtBase.pc + BitVec.ofNat 14 k).toNat = [(0x06 : Byte), 0x7E, 0x00].getD k 0) ∧
      decode [0x06, 0x7E, 0x00] = .ok (.lrI .A 0x7E, [0x00]) := ⟨by decide, by decide, by decide, rfl⟩
theorem witness_StepRunsTheFetchedInstruction_one :
    haltAtBase.stopped = false ∧ haltAtBase.OffersNone ∧
      (∀ k : Nat, k < (insnSize 0x00).bytes →
        haltAtBase.HasMemory (haltAtBase.pc + BitVec.ofNat 14 k) ∧
          haltAtBase.mem.read (haltAtBase.pc + BitVec.ofNat 14 k).toNat = [(0x00 : Byte), 0x00, 0x00].getD k 0) ∧
      decode [0x00, 0x00, 0x00] = .ok (.hlt, [0x00, 0x00]) := ⟨by decide, by decide, by decide, rfl⟩
theorem witness_StoppedMachineChangesNothing :
    waiting.stopped = true ∧ (∀ k : Nat, k < 2 → waiting.offerAt k = none) ∧ (startingWith 0x05).stopped = true ∧
      ∃ t, step (startingWith 0x05) = .next t ∧ t.stopped = false := ⟨rfl, by decide, rfl, _, rfl, rfl⟩
theorem witness_InterruptRunsTheJammedByte :
    (jamming 0x05).Offers 0x05 ∧ (jamming 0x05).stopped = false ∧ (startingWith 0xC0).Offers 0xC0 ∧
      (startingWith 0xC0).stopped = true ∧ insnSize 0x05 = .one ∧ insnSize 0xC0 = .one := by decide
theorem witness_MultiByteJamIsRefused :
    (jamming 0x46).Offers 0x46 ∧ (insnSize 0x46).bytes = 3 ∧ (startingWith 0x06).Offers 0x06 ∧
      (insnSize 0x06).bytes = 2 := by decide
theorem witness_JammedRestartKeepsTheReturnAddress :
    (jamming (byteOf 0 0 5)).Offers (byteOf 0 0 5) ∧ (startingWith (byteOf 0 7 5)).Offers (byteOf 0 7 5) := by decide
theorem witness_StartUpInterruptChoosesTheEntry :
    ({ startingWith (byteOf 0 7 5) with sp := 7, fC := true, tmpA := 0xFF } : State).PowerUp ∧
      (startingWith (byteOf 0 0 5)).PowerUp ∧ (startingWith (byteOf 0 0 5)).Offers (byteOf 0 0 5) ∧
      (startingWith 0xC0).PowerUp ∧ (startingWith 0xC0).Offers 0xC0 := by decide
theorem witness_StepKeepsTheInvariant :
    jumpAtTop.Inv ∧ (∃ t, step jumpAtTop = .next t) ∧ (startingWith 0x05).Inv ∧ (∃ t, step (startingWith 0x05) = .next t) ∧
      waiting.Inv ∧ (∃ t, step waiting = .next t) ∧ haltAtBase.Inv ∧ ∃ t, step haltAtBase = .next t :=
  ⟨by decide, ⟨_, rfl⟩, by decide, ⟨_, rfl⟩, by decide, ⟨_, rfl⟩, by decide, ⟨_, rfl⟩⟩
theorem witness_StoppedIsSetByHltAndClearedByInterrupt :
    (∃ t, step waiting = .next t ∧ t.stopped = true) ∧ (∃ t, step haltAtBase = .next t ∧ t.stopped = true) ∧
      (startingWith 0x05).stopped = true ∧ (∃ t, step (startingWith 0x05) = .next t ∧ t.stopped = false) ∧
      waiting.stopped = true ∧ waiting.OffersNone :=
  ⟨⟨_, rfl, rfl⟩, ⟨_, rfl, rfl⟩, rfl, ⟨_, rfl, rfl⟩, rfl, by decide⟩
theorem witness_StepUsesThePlatformInOrder :
    (∃ t, step { jamming 0xC0 with inputs := [0x3C] } = .next t) ∧
      ∃ t, step (({ base with inputs := [0x3C] } : State).withFetchWord 8 0x45) = .next t ∧ t.inputs = [] :=
  ⟨⟨_, rfl⟩, ⟨_, rfl, rfl⟩⟩
theorem witness_PlacedWordRunsNext :
    State.reset.mem.wf = true ∧ decodeTableWord 8 0xC1 = some (.lr1r2 .A .B) ∧
      jumpAtTop.mem.wf = true ∧ decodeTableWord 24 0x3FFF44 = some (.jmp 0x3FFF) := by decide
theorem witness_OnlyStoresChangeMemory :
    (∃ t, exec (.lMr .L) base = .next t) ∧ (∃ t, exec (.lMI 0xFF) base = .next t) ∧ ∃ t, exec .cpm mapped = .next t :=
  ⟨⟨_, rfl⟩, ⟨_, rfl⟩, ⟨_, rfl⟩⟩
theorem witness_FlagsKeptByOtherInstructions :
    (∃ t, exec (.dcr .L) base = .next t) ∧ (∃ t, exec .rar base = .next t) ∧ (∃ t, exec (.xri 0xFF) base = .next t) ∧
      ∃ t, exec (.inp 7) base = .next t := ⟨⟨_, rfl⟩, ⟨_, rfl⟩, ⟨_, rfl⟩, ⟨_, rfl⟩⟩
theorem witness_RegistersKeptButTheDestination :
    (∃ t, exec (.inr .L) base = .next t) ∧ (∃ t, exec .sbm base = .next t) ∧ ∃ t, exec (.out 3 7) base = .next t :=
  ⟨⟨_, rfl⟩, ⟨_, rfl⟩, ⟨_, rfl⟩⟩
theorem witness_StackMovesOneEntryAtMost :
    (∃ t, exec (.jtc .P 0x3FFF) base = .next t) ∧ (∃ t, exec (.rst 7) (withStack 7 0 1 0) = .next t) ∧
      (∃ t, exec (.cfc .C 0) base = .next t) ∧ (∃ t, exec .ret base = .next t) ∧ (∃ t, exec (.rtc .P) base = .next t) ∧
      ∃ t, exec .hlt base = .next t := ⟨⟨_, rfl⟩, ⟨_, rfl⟩, ⟨_, rfl⟩, ⟨_, rfl⟩, ⟨_, rfl⟩, ⟨_, rfl⟩⟩
theorem witness_FlagsReachOnlyTheirReaders : ∃ t, exec (.adr .B) base = .next t := ⟨_, rfl⟩
theorem witness_TestBusShowsWhatIsMoved :
    (∃ t, exec (.lr1r2 .A .L) base = .next t) ∧ (∃ t, exec (.lrI .L 0xFF) base = .next t) ∧
      (∃ t, exec (.jfc .C 0) base = .next t) ∧ (∃ t, exec (.jtc .C 0) base = .next t) ∧
      (∃ t, exec (.rfc .P) base = .next t) ∧ (∃ t, exec (.rst 7) base = .next t) ∧
      (∃ t, exec (.inp 7) base = .next t) ∧ ∃ t, exec (.out 3 7) base = .next t :=
  ⟨⟨_, rfl⟩, ⟨_, rfl⟩, ⟨_, rfl⟩, ⟨_, rfl⟩, ⟨_, rfl⟩, ⟨_, rfl⟩, ⟨_, rfl⟩, ⟨_, rfl⟩⟩
theorem witness_LoadRegisterFromMemory :
    mapped.HasMemory 0x10FF ∧ ¬ mapped.HasMemory 0x2000 ∧ ¬ mapped.HasMemory 0x30FF ∧ mapped.HasMemory 0x3100 := by decide
theorem witness_StoreRegisterToMemory :
    mapped.mem.wf = true ∧ mapped.kindAt mapped.mAddr = .ram ∧
      ({ mapped with rH := 0x10 } : State).kindAt ({ mapped with rH := 0x10 } : State).mAddr = .rom := by decide
theorem witness_StoreImmediateToMemory :
    jumpAtTop.mem.wf = true ∧ jumpAtTop.kindAt jumpAtTop.mAddr = .ram ∧
      ({ mapped with rH := 0xE0 } : State).kindAt ({ mapped with rH := 0xE0 } : State).mAddr = .unpopulated := by decide
theorem witness_CompareOrdersTheAccumulator :
    (withM 0x3F 0xFF 0x3FFF 0x06).HasMemory (withM 0x3F 0xFF 0x3FFF 0x06).mAddr := by decide
theorem witness_SubtractUndoesAdd : Reg.B ≠ Reg.A := by decide
theorem witness_ConditionalForms :
    base.cond .Z = false ∧ ({ base with fZ := true } : State).cond .Z = true ∧
      ({ base with fP := true } : State).cond .P = true := by decide
theorem witness_RestartAddressIsBitsThreeToFive :
    decodeOp 0x05 0 0 = .rst 0 ∧ decodeOp 0x3D 0xFF 0xFF = .rst 7 := by decide
theorem witness_NestedCallsReturnInOrder :
    ([] : List Addr).length ≤ 7 ∧ (List.replicate 7 (0x3FFF : Addr)).length ≤ 7 := by decide
theorem witness_EighthCallLosesTheOldestReturn : (List.replicate 7 (0 : Addr)).length = 7 := by decide
theorem witness_OutputSendsA : (1 : BitVec 2) ≠ 0 ∧ (3 : BitVec 2) ≠ 0 := by decide
theorem witness_InputTakesAByteIntoA :
    ({ base with inputs := [0xFF] } : State).inputs = 0xFF :: [] ∧ base.inputs = [] := by decide
theorem witness_MemoryReadsWhatWasWritten :
    mapped.mem.wf = true ∧ mapped.kindAt 0x0FFF = .ram ∧ mapped.kindAt 0x1000 = .rom ∧
      mapped.HasMemory 0x3FFF ∧ (0x3FFF : Addr) ≠ 0x1000 := by decide
theorem witness_StoredByteIsFetchedNext :
    (withM 0x01 0x00 0x0120 0x77).mem.wf = true ∧
      (withM 0x01 0x00 0x0120 0x77).kindAt (withM 0x01 0x00 0x0120 0x77).mAddr = .ram ∧
      (withM 0x01 0x00 0x0120 0x77).mAddr = (withM 0x01 0x00 0x0120 0x77).pc := by decide

end Sys2Proof.Tests
end

section
/-!
The stopped state (R41): which bytes are HLT, how an instruction ends, and what a step makes of STOPPED.
-/

namespace Sys2Proof

/-! ## The bytes of HLT -/

/-- The instruction is HLT, in either of its two encodings (R220). -/
def Instr.isHlt : Instr → Bool
  | .hlt | .hltFF => true
  | _ => false

theorem Instr.isHlt_iff (i : Instr) : i.isHlt = true ↔ i = .hlt ∨ i = .hltFF := by
  cases i <;> simp [Instr.isHlt]

@[simp] theorem Instr.isHlt_aluR (p : AluOp) (r : Reg) : (Instr.aluR p r).isHlt = false := by
  cases p <;> rfl

@[simp] theorem Instr.isHlt_aluM (p : AluOp) : (Instr.aluM p).isHlt = false := by
  cases p <;> rfl

@[simp] theorem Instr.isHlt_aluI (p : AluOp) (v : Byte) : (Instr.aluI p v).isHlt = false := by
  cases p <;> rfl

/-- Only the code of M names no register (R21, R22). -/
theorem Reg.ofCode_eq_none_iff (c : BitVec 3) : Reg.ofCode c = none ↔ c = Config.codeM := by
  revert c
  decide

/-- A first byte is its three fields side by side (R81). -/
theorem byteOf_fields (op : Byte) : byteOf (fieldMajor op) (fieldMid op) (fieldLow op) = op := by
  revert op
  decide

/-- In major group 00 the bytes of HLT are those with DDD = 000 and the minor opcode of INr or DCr (R91). -/
theorem decodeGroup0_fields_of_isHlt (op b2 : Byte) (h : (decodeGroup0 op b2).isHlt = true) :
    fieldMid op = 0 ∧ (fieldLow op = 0 ∨ fieldLow op = 1) := by
  unfold decodeGroup0 at h
  split at h
  case h_1 hlow =>
    split at h
    case isTrue hmid => exact ⟨hmid, .inl (BitVec.eq_of_toNat_eq hlow)⟩
    case isFalse => split at h <;> cases h
  case h_2 hlow =>
    split at h
    case isTrue hmid => exact ⟨hmid, .inr (BitVec.eq_of_toNat_eq hlow)⟩
    case isFalse => split at h <;> cases h
  case h_5 => simp at h
  all_goals
    repeat' split at h
    all_goals cases h

/-- Major group 01 has no HLT (R85). -/
theorem decodeGroup1_not_hlt (op b2 b3 : Byte) : (decodeGroup1 op b2 b3).isHlt = false := by
  unfold decodeGroup1
  repeat' split
  all_goals rfl

/-- Major group 10 has no HLT (R85). -/
theorem decodeGroup2_not_hlt (op : Byte) : (decodeGroup2 op).isHlt = false := by
  unfold decodeGroup2
  split <;> simp

/-- In major group 11 the byte of HLT is the one whose two fields both name M (R91). -/
theorem decodeGroup3_fields_of_isHlt (op : Byte) (h : (decodeGroup3 op).isHlt = true) :
    fieldMid op = 7 ∧ fieldLow op = 7 := by
  unfold decodeGroup3 at h
  split at h
  case h_4 hmid hlow => exact ⟨(Reg.ofCode_eq_none_iff _).mp hmid, (Reg.ofCode_eq_none_iff _).mp hlow⟩
  all_goals cases h

/-- The fourth major group is what the other three leave (R85). -/
theorem major_eq_three (m : BitVec 2) (h0 : m.toNat ≠ 0) (h1 : m.toNat ≠ 1) (h2 : m.toNat ≠ 2) : m = 3 := by
  bv_omega

/-- The bytes that decode to HLT are the three of R220, whatever bytes follow. -/
theorem decodeOp_isHlt_iff (op b2 b3 : Byte) :
    (decodeOp op b2 b3).isHlt = true ↔ op = 0x00 ∨ op = 0x01 ∨ op = 0xFF := by
  constructor
  · intro h
    have hop := byteOf_fields op
    unfold decodeOp at h
    split at h
    case h_1 hmajor =>
      have hmajor : fieldMajor op = 0 := BitVec.eq_of_toNat_eq hmajor
      obtain ⟨hmid, hlow | hlow⟩ := decodeGroup0_fields_of_isHlt op b2 h
      · rw [hmajor, hmid, hlow] at hop
        exact .inl hop.symm
      · rw [hmajor, hmid, hlow] at hop
        exact .inr (.inl hop.symm)
    case h_2 => simp [decodeGroup1_not_hlt] at h
    case h_3 => simp [decodeGroup2_not_hlt] at h
    case h_4 h0 h1 h2 =>
      have hmajor : fieldMajor op = 3 := major_eq_three _ h0 h1 h2
      obtain ⟨hmid, hlow⟩ := decodeGroup3_fields_of_isHlt op h
      rw [hmajor, hmid, hlow] at hop
      exact .inr (.inr hop.symm)
  · rintro (rfl | rfl | rfl) <;> rfl

end Sys2Proof

namespace Sys2Proof.Machine

/-! ## How an instruction ends -/

/-- What only a fetch, an interrupt or HLT changes, field by field, for `simp`. -/
theorem sameControl_iff (s t : State) :
    SameControl s t ↔ t.ir = s.ir ∧ t.stopped = s.stopped ∧ t.memMap = s.memMap ∧ t.interrupts = s.interrupts ∧
      t.offersDrawn = s.offersDrawn := Iff.rfl

/-- An instruction begun in `s` ends in `t` with the next PCI cycle ahead, after work that writes none of what only a
fetch, an interrupt or HLT changes (R40). -/
def Completes (s t : State) : Prop := ∃ u n, SameControl s u ∧ t = u.complete n

theorem Completes.of_sameControl {s u : State} {n : Nat} (h : SameControl s u) : Completes s (u.complete n) :=
  ⟨u, n, h, rfl⟩

theorem Completes.ite {s t u : State} {c : Prop} [Decidable c] (ht : Completes s t) (hu : Completes s u) :
    Completes s (if c then t else u) := by
  split
  · exact ht
  · exact hu

theorem Completes.stopped_eq {s t : State} (h : Completes s t) : t.stopped = s.stopped := by
  obtain ⟨u, n, ⟨_, hstopped, _⟩, rfl⟩ := h
  exact hstopped

theorem State.aluReg_completes (s : State) (p : AluOp) (r : Reg) : Completes s (s.aluReg p r) :=
  .of_sameControl (by simp [sameControl_iff])

theorem State.aluMem_completes (s : State) (p : AluOp) : Completes s (s.aluMem p) :=
  .of_sameControl (u := (((s.memRead .pcr s.mAddr).2.showOpens .two).doAlu p (s.memRead .pcr s.mAddr).1))
    (by simp [sameControl_iff])

theorem State.aluImm_completes (s : State) (p : AluOp) (v : Byte) : Completes s (s.aluImm p v) :=
  .of_sameControl (by simp [sameControl_iff])

theorem State.rotateTo_completes (s : State) (v : Byte) (c : Bool) : Completes s (s.rotateTo v c) :=
  .of_sameControl (by simp [sameControl_iff])

theorem State.countTo_completes (s : State) (d : Reg) (v : Byte) (c : Bool) :
    Completes s ((s.countTo d v c).complete 5) :=
  .of_sameControl (by simp [sameControl_iff, State.countTo_eq])

/-- LrM, with the byte and the state its read answers (R112). -/
theorem exec_lrM (d : Reg) (s : State) :
    exec (.lrM d) s = .next (((((s.memRead .pcr s.mAddr).2.setTmpB (s.memRead .pcr s.mAddr).1).showOpen .two
      .T4).bToReg .two d).complete 8) := rfl

/-- INP, with the byte and the state its I/O cycle answers (R210). -/
theorem exec_inp (mmm : BitVec 3) (s : State) :
    exec (.inp mmm) s = .next (((((s.ioIn (portOf 0 mmm)).2.setTmpB (s.ioIn (portOf 0 mmm)).1).showBits .two .T4
      (0#4 ++ s.flagNibble) 0x0F).bToReg .two .A).complete 8) := rfl

/-- HLT halts the processor (R220). -/
theorem exec_of_isHlt {i : Instr} (s : State) (h : i.isHlt = true) : exec i s = .next s.halt := by
  obtain rfl | rfl := i.isHlt_iff.mp h <;> rfl

/-- An instruction that has a next state halts the processor if it is HLT, and otherwise completes. -/
theorem exec_cases {i : Instr} {s t : State} (h : exec i s = .next t) :
    (i.isHlt = true ∧ t = s.halt) ∨ (i.isHlt = false ∧ Completes s t) := by
  cases i with
  | hlt | hltFF =>
    cases h
    exact .inl ⟨rfl, rfl⟩
  | unspecRotate _ | unspec38 | unspec39 => cases h
  | adr r | acr r | sur r | sbr r | ndr r | xrr r | orr r | cpr r =>
    cases h
    exact .inr ⟨rfl, s.aluReg_completes _ r⟩
  | adm | acm | sum | sbm | ndm | xrm | orm | cpm =>
    cases h
    exact .inr ⟨rfl, s.aluMem_completes _⟩
  | adi v | aci v | sui v | sbi v | ndi v | xri v | ori v | cpi v =>
    cases h
    exact .inr ⟨rfl, s.aluImm_completes _ v⟩
  | rlc | rrc | ral | rar =>
    cases h
    exact .inr ⟨rfl, s.rotateTo_completes _ _⟩
  | inr d | dcr d =>
    cases h
    exact .inr ⟨rfl, s.countTo_completes d _ _⟩
  | jfc _ _ | jtc _ _ | cfc _ _ | ctc _ _ | rfc _ | rtc _ =>
    cases h
    exact .inr ⟨rfl, .ite (.of_sameControl (by simp [sameControl_iff])) (.of_sameControl (by simp [sameControl_iff]))⟩
  | lrM d =>
    rw [exec_lrM] at h
    cases h
    exact .inr ⟨rfl, .of_sameControl (by simp [sameControl_iff, State.bToReg])⟩
  | inp mmm =>
    rw [exec_inp] at h
    cases h
    exact .inr ⟨rfl, .of_sameControl (by simp [sameControl_iff, State.bToReg])⟩
  | lr1r2 _ _ | lMr _ | lrI _ _ | lMI _ | jmp _ | cal _ | ret | rst _ | out _ _ =>
    cases h
    exact .inr ⟨rfl, .of_sameControl (by simp [sameControl_iff, State.bToReg])⟩

/-! ## STOPPED in a step -/

/-- An instruction that ends stopped while it began running is HLT. -/
theorem isHlt_of_exec_stopped {i : Instr} {s t : State} (h : exec i s = .next t) (hs : s.stopped = false)
    (ht : t.stopped = true) : i.isHlt = true ∧ t.ir = s.ir := by
  obtain ⟨hhlt, rfl⟩ | ⟨_, hcomplete⟩ := exec_cases h
  · exact ⟨hhlt, rfl⟩
  · simp [hcomplete.stopped_eq, hs] at ht

/-- A jammed byte that leaves the processor stopped is one of HLT. -/
theorem ir_of_runJammed_stopped {op : Byte} {s t : State} (h : runJammed op s = .next t) (ht : t.stopped = true) :
    t.ir = 0x00 ∨ t.ir = 0x01 ∨ t.ir = 0xFF := by
  obtain ⟨_, hrun⟩ | ⟨_, hrefused⟩ := runJammed_cases op s
  · obtain ⟨hhlt, hir⟩ := isHlt_of_exec_stopped (hrun.symm.trans h) rfl ht
    rw [hir]
    exact (decodeOp_isHlt_iff op 0 0).mp hhlt
  · cases hrefused.symm.trans h

/-- A fetched instruction that stops the running processor was fetched from one of the bytes of HLT. -/
theorem ir_of_fetched_stopped {s t : State} (h : exec s.fetchInstr.1 s.fetchInstr.2 = .next t)
    (hs : s.stopped = false) (ht : t.stopped = true) : t.ir = 0x00 ∨ t.ir = 0x01 ∨ t.ir = 0xFF := by
  obtain ⟨b2, b3, hdecode⟩ := s.fetchInstr_ir
  obtain ⟨hhlt, hir⟩ := isHlt_of_exec_stopped h (by simpa using hs) ht
  rw [hdecode] at hhlt
  rw [hir]
  exact (decodeOp_isHlt_iff _ b2 b3).mp hhlt

/-- A step that ends stopped began so with no interrupt presented, or ran one of the bytes of HLT. -/
theorem step_ends_stopped {s t : State} (h : step s = .next t) (ht : t.stopped = true) :
    (s.stopped = true ∧ s.OffersNone) ∨ t.ir = 0x00 ∨ t.ir = 0x01 ∨ t.ir = 0xFF := by
  obtain ⟨op, _, hstep⟩ | ⟨hnone, hstopped, _⟩ | ⟨_, hrunning, hstep⟩ := step_cases s
  · exact .inr (ir_of_runJammed_stopped (hstep.symm.trans h) ht)
  · exact .inl ⟨hstopped, s.nextOffer_fst.symm.trans hnone⟩
  · exact .inr (ir_of_fetched_stopped (hstep.symm.trans h) (by simpa using hrunning) ht)

/-- A stopped machine that no interrupt is presented to only uses up the offer (R221; log entry 6). -/
theorem step_of_stopped_offersNone {s : State} (hs : s.stopped = true) (hnone : s.OffersNone) :
    step s = .next (s.afterOffers 1) := by
  have hnone : s.nextOffer.1 = none := s.nextOffer_fst.trans hnone
  obtain ⟨op, hsome, _⟩ | ⟨_, _, hstep⟩ | ⟨_, hrunning, _⟩ := step_cases s
  · simp [hnone] at hsome
  · rw [hstep, s.nextOffer_snd]
  · simp [hs] at hrunning

/-- Only an interrupt ends the stopped state (R232). -/
theorem offers_of_step_ends_running {s t : State} (hs : s.stopped = true) (h : step s = .next t)
    (ht : t.stopped = false) : ∃ op, s.Offers op := by
  cases hoffer : s.offerAt 0 with
  | some op => exact ⟨op, hoffer⟩
  | none =>
    rw [step_of_stopped_offersNone hs hoffer] at h
    cases h
    simp [State.afterOffers, hs] at ht

/-- Settles O21: the cases of a step, with HLT the one instruction that writes STOPPED and its bytes read off the
decoder. -/
theorem stoppedIsSetByHltAndClearedByInterrupt : Obligations.StoppedIsSetByHltAndClearedByInterrupt := by
  refine ⟨rfl, fun s t h ht => step_ends_stopped h ht, fun op b2 b3 s hop => ?_,
    fun s t hs h ht => offers_of_step_ends_running hs h ht, fun s hs hnone => step_of_stopped_offersNone hs hnone⟩
  exact ⟨s.halt, exec_of_isHlt s ((decodeOp_isHlt_iff op b2 b3).mpr hop), rfl, rfl, rfl⟩

end Sys2Proof.Machine
end

section
/-!
The decoder on the fields of a first byte (R81, R85): the rows with don't-care bits (R94), which the major and the minor
opcode select alone, and the bytes of RST with the restart address read off them (R88).
-/

namespace Sys2Proof

/-! ## The fields of a byte built from its fields -/

@[simp] theorem fieldMajor_byteOf (major : BitVec 2) (mid low : BitVec 3) :
    fieldMajor (byteOf major mid low) = major := by
  revert major mid low
  decide

@[simp] theorem fieldLow_byteOf (major : BitVec 2) (mid low : BitVec 3) : fieldLow (byteOf major mid low) = low := by
  revert major mid low
  decide

/-! ## The rows with don't-care bits (R94) -/

theorem decodeOp_of_major_zero {op : Byte} (b2 b3 : Byte) (h : fieldMajor op = 0) :
    decodeOp op b2 b3 = decodeGroup0 op b2 := by
  simp [decodeOp, h]

theorem decodeOp_of_major_one {op : Byte} (b2 b3 : Byte) (h : fieldMajor op = 1) :
    decodeOp op b2 b3 = decodeGroup1 op b2 b3 := by
  simp [decodeOp, h]

theorem decodeGroup0_of_low_seven {op : Byte} (b2 : Byte) (h : fieldLow op = 7) : decodeGroup0 op b2 = .ret := by
  simp [decodeGroup0, h]

theorem decodeGroup1_of_low_four {op : Byte} (b2 b3 : Byte) (h : fieldLow op = 4) :
    decodeGroup1 op b2 b3 = .jmp (assembleAddr b2 b3) := by
  simp [decodeGroup1, h]

theorem decodeGroup1_of_low_six {op : Byte} (b2 b3 : Byte) (h : fieldLow op = 6) :
    decodeGroup1 op b2 b3 = .cal (assembleAddr b2 b3) := by
  simp [decodeGroup1, h]

/-- Settles O3: the major and the minor opcode alone select JMP, CAL and RET, and the middle field is free; HLT is its two
bytes. -/
theorem dontCareBitsAreNotDecoded : Obligations.DontCareBitsAreNotDecoded := by
  refine ⟨fun x b2 b3 => ?jmp, fun x b2 b3 => ?cal, fun x b2 b3 => ?ret, fun b2 b3 => ?hlt⟩
  case jmp =>
    rw [decodeOp_of_major_one b2 b3 (fieldMajor_byteOf 1 x 4), decodeGroup1_of_low_four b2 b3 (fieldLow_byteOf 1 x 4)]
  case cal =>
    rw [decodeOp_of_major_one b2 b3 (fieldMajor_byteOf 1 x 6), decodeGroup1_of_low_six b2 b3 (fieldLow_byteOf 1 x 6)]
  case ret =>
    rw [decodeOp_of_major_zero b2 b3 (fieldMajor_byteOf 0 x 7), decodeGroup0_of_low_seven b2 (fieldLow_byteOf 0 x 7)]
  case hlt => exact ⟨rfl, rfl⟩

/-! ## The bytes of RST (R88) -/

theorem Instr.aluR_ne_rst (p : AluOp) (r : Reg) (aaa : BitVec 3) : Instr.aluR p r ≠ .rst aaa := by
  cases p <;> exact Instr.noConfusion

theorem Instr.aluM_ne_rst (p : AluOp) (aaa : BitVec 3) : Instr.aluM p ≠ .rst aaa := by
  cases p <;> exact Instr.noConfusion

theorem Instr.aluI_ne_rst (p : AluOp) (v : Byte) (aaa : BitVec 3) : Instr.aluI p v ≠ .rst aaa := by
  cases p <;> exact Instr.noConfusion

/-- In major group 00 the RST a byte decodes to takes AAA from bits 5 to 3 (R85). -/
theorem fieldMid_of_decodeGroup0_rst {op b2 : Byte} {aaa : BitVec 3} (h : decodeGroup0 op b2 = .rst aaa) :
    fieldMid op = aaa := by
  unfold decodeGroup0 at h
  split at h
  case h_5 => exact absurd h (Instr.aluI_ne_rst _ _ _)
  case h_6 =>
    cases h
    rfl
  all_goals
    repeat' split at h
    all_goals cases h

/-- Major group 01 has no RST (R85). -/
theorem decodeGroup1_ne_rst (op b2 b3 : Byte) (aaa : BitVec 3) : decodeGroup1 op b2 b3 ≠ .rst aaa := by
  intro h
  unfold decodeGroup1 at h
  repeat' split at h
  all_goals cases h

/-- Major group 10 has no RST (R85). -/
theorem decodeGroup2_ne_rst (op : Byte) (aaa : BitVec 3) : decodeGroup2 op ≠ .rst aaa := by
  unfold decodeGroup2
  split
  · exact Instr.aluR_ne_rst _ _ _
  · exact Instr.aluM_ne_rst _ _

/-- Major group 11 has no RST (R85). -/
theorem decodeGroup3_ne_rst (op : Byte) (aaa : BitVec 3) : decodeGroup3 op ≠ .rst aaa := by
  intro h
  unfold decodeGroup3 at h
  split at h
  all_goals cases h

/-- AAA of the RST a first byte decodes to is the middle field of that byte, whatever bytes follow. -/
theorem fieldMid_of_decodeOp_rst {op b2 b3 : Byte} {aaa : BitVec 3} (h : decodeOp op b2 b3 = .rst aaa) :
    fieldMid op = aaa := by
  unfold decodeOp at h
  split at h
  · exact fieldMid_of_decodeGroup0_rst h
  · exact absurd h (decodeGroup1_ne_rst _ _ _ _)
  · exact absurd h (decodeGroup2_ne_rst _ _)
  · exact absurd h (decodeGroup3_ne_rst _ _)

namespace Machine

/-- Eight times the middle field is the byte with its other bits masked off (R88). -/
theorem restartAddr_fieldMid (op : Byte) : restartAddr (fieldMid op) = (op &&& 0x38).zeroExtend 14 := by
  revert op
  decide

@[simp] theorem State.call_pc (s : State) (target : Addr) : (s.call target).pc = target := by
  obtain ⟨_, hpc, _⟩ := s.call_spec target
  exact hpc

/-- RST goes to its restart address (R190). -/
theorem exec_rst_pc (aaa : BitVec 3) (s : State) : ∃ t, exec (.rst aaa) s = .next t ∧ t.pc = restartAddr aaa :=
  ⟨_, rfl, by rw [State.complete_pc, State.call_pc]⟩

/-- Settles O51: AAA is read off the byte's middle field by the decoder, and RST jumps to 8 times AAA. -/
theorem restartAddressIsBitsThreeToFive : Obligations.RestartAddressIsBitsThreeToFive := by
  intro op b2 b3 aaa h s
  have haaa : fieldMid op = aaa := fieldMid_of_decodeOp_rst h
  rw [h, ← restartAddr_fieldMid op, haaa]
  exact exec_rst_pc aaa s

end Machine

end Sys2Proof
end

section
/-!
The loads of a register (R111, R112) in their two halves: a byte comes into temporary b, from a register or from memory, and
then goes from temporary b to the register as the instruction ends.
-/

namespace Sys2Proof

/-- The instructions of major group 11 have one byte (R90). -/
theorem insnSize_of_major_three {op : Byte} (h : fieldMajor op = 3) : insnSize op = .one := by
  simp [insnSize, h]

namespace Machine

/-! ## The byte comes into temporary b -/

/-- Between `s` and `u` the byte `v` has come into temporary b. Where from is left open, and so is what a memory cycle on
the way did to the event history and the draws. -/
structure BringsToB (v : Byte) (s u : State) : Prop where
  regs : SameRegs s u
  flags : SameFlags s u
  stack : SameStack s u
  mem : SameMem s u
  control : SameControl s u
  tmpA : u.tmpA = s.tmpA
  tmpB : u.tmpB = v
  states : u.states = s.states

/-- "SSS TO REG. b" (R39). -/
theorem State.regToB_bringsToB (s : State) (r : Reg) : BringsToB (s.reg r) s (s.regToB r) where
  regs := s.regToB_reg r
  flags := s.regToB_cond r
  stack := ⟨rfl, rfl⟩
  mem _ := rfl
  control := ⟨rfl, rfl, rfl, rfl, rfl⟩
  tmpA := rfl
  tmpB := rfl
  states := rfl

/-- The state of LrM with the byte read at M in temporary b, after the idle T4 of cycle two (R112). -/
def State.memToB (s : State) : State :=
  ((s.memRead .pcr s.mAddr).2.setTmpB (s.memRead .pcr s.mAddr).1).showOpen .two .T4

theorem State.memToB_bringsToB (s : State) : BringsToB (s.memRead .pcr s.mAddr).1 s s.memToB where
  regs _ := by simp [State.memToB]
  flags _ := by simp [State.memToB]
  stack := ⟨by simp [State.memToB], by simp [State.memToB]⟩
  mem _ := by simp [State.memToB]
  control := by simp [State.memToB, sameControl_iff]
  tmpA := by simp [State.memToB]
  tmpB := rfl
  states := by simp [State.memToB]

/-- The one memory cycle on the way is the read of M, at the address of the state before. -/
theorem State.memToB_readsByte (s : State) : ReadsByte .pcr s.mAddr (s.memRead .pcr s.mAddr).1 s s.memToB :=
  s.memRead_spec .pcr s.mAddr

/-! ## The byte goes from temporary b to the register -/

/-- Between `s` and `t` the byte `v` went through temporary b to the register `d`, in `n` states. What memory cycles were
made is left open. -/
structure LoadsThroughB (d : Reg) (v : Byte) (n : Nat) (s t : State) : Prop where
  dest : t.reg d = v
  others : SameRegsBut d s t
  flags : SameFlags s t
  stack : SameStack s t
  mem : SameMem s t
  control : SameControl s t
  tmpA : t.tmpA = s.tmpA
  tmpB : t.tmpB = v
  states : t.states = s.states + n

/-- "REG. b TO DDD" and the end of the instruction complete a load (R39). -/
theorem BringsToB.loads {v : Byte} {s u : State} (h : BringsToB v s u) (c : Cycle) (d : Reg) (n : Nat) :
    LoadsThroughB d v n s ((u.bToReg c d).complete n) where
  dest := by simp [h.tmpB]
  others q hq := by simp [hq, h.regs q]
  flags cc := by simp [h.flags cc]
  stack := ⟨by simp [h.stack.left], by simp [h.stack.right]⟩
  mem a := by simpa using h.mem a
  control := by simpa [sameControl_iff] using h.control
  tmpA := by simp [h.tmpA]
  tmpB := by simp [h.tmpB]
  states := by simp [h.states]

/-- The transfer to the register and the end of the instruction make no memory or I/O cycle. -/
theorem State.bToReg_complete_noCycle (u : State) (c : Cycle) (d : Reg) (n : Nat) :
    NoCycle u ((u.bToReg c d).complete n) :=
  ⟨by simp, by simp, by simp⟩

/-- What a read cycle did is still to be seen after work that makes no cycle. -/
theorem ReadsByte.of_noCycle {k : ReadKind} {a : Addr} {v : Byte} {s u t : State} (h : ReadsByte k a v s u)
    (hn : NoCycle u t) : ReadsByte k a v s t := by
  obtain ⟨hevents, hdraws, hinputs⟩ := hn
  rw [ReadsByte, hevents, hdraws, hinputs]
  exact h

/-! ## Lr1r2 and LrM -/

/-- Settles O29: the source register is read into temporary b and from there to the destination, which may be the same
register. -/
theorem loadRegisterFromRegister : Obligations.LoadRegisterFromRegister := by
  intro d r s
  have hload := (s.regToB_bringsToB r).loads .one d 5
  have hcycle : NoCycle s _ := (s.regToB r).bToReg_complete_noCycle .one d 5
  exact ⟨rfl, insnSize_of_major_three (fieldMajor_byteOf 3 d.code r.code), _, rfl, hload.dest, hload.others, hload.flags,
    hload.stack, hload.mem, hload.control, hcycle, hload.tmpA, hload.tmpB, hload.states⟩

/-- Settles O30: the read takes its address from the state before, and its byte, held or drawn, is the one that comes
through temporary b to the register. -/
theorem loadRegisterFromMemory : Obligations.LoadRegisterFromMemory := by
  intro d s
  have hload := s.memToB_bringsToB.loads .two d 8
  have hread := s.memToB_readsByte.of_noCycle (s.memToB.bToReg_complete_noCycle .two d 8)
  exact ⟨rfl, insnSize_of_major_three (fieldMajor_byteOf 3 d.code 7), _, _, exec_lrM d s, hread, hload.dest, hload.others,
    hload.flags, hload.stack, hload.mem, hload.control, hload.tmpA, hload.tmpB, hload.states⟩

end Machine

end Sys2Proof
end

section
/-!
The stopped state over any number of steps (R221).
-/

namespace Sys2Proof.Machine

@[simp] theorem State.afterOffers_zero (s : State) : s.afterOffers 0 = s := by
  simp [State.afterOffers]

@[simp] theorem State.afterOffers_stopped (s : State) (n : Nat) : (s.afterOffers n).stopped = s.stopped := rfl

/-- A run goes on from the state its first step answers. -/
theorem run_succ_of_step (M : Host.Core) {s t : M.State} (n : Nat) (h : M.step s = .next t) :
    M.run (n + 1) s = M.run n t := by
  simp only [Host.Core.run, h]

/-- A stopped machine that no interrupt is presented to for `n` steps only uses up the offers: each step leaves it stopped,
with the later offers moved up by one. -/
theorem run_of_stopped_offersNone (n : Nat) {s : State} (hs : s.stopped = true)
    (hnone : ∀ k : Nat, k < n → s.offerAt k = none) : Host.Core.run core n s = .next (s.afterOffers n) := by
  induction n generalizing s with
  | zero =>
    rw [s.afterOffers_zero]
    rfl
  | succ n ih =>
    have hlater : ∀ k : Nat, k < n → (s.afterOffers 1).offerAt k = none := fun k hk => by
      rw [s.offerAt_afterOffers]
      exact hnone (1 + k) (by omega)
    calc Host.Core.run core (n + 1) s
        = Host.Core.run core n (s.afterOffers 1) :=
          run_succ_of_step core n (step_of_stopped_offersNone hs (hnone 0 n.succ_pos))
      _ = .next ((s.afterOffers 1).afterOffers n) := ih ((s.afterOffers_stopped 1).trans hs) hlater
      _ = .next (s.afterOffers (n + 1)) := by rw [s.afterOffers_afterOffers, Nat.add_comm]

/-- Settles O11, by induction on the number of steps; that only an interrupt ends the stopped state is the lemma of one
step. -/
theorem stoppedMachineChangesNothing : Obligations.StoppedMachineChangesNothing :=
  ⟨fun n _ hs hnone => run_of_stopped_offersNone n hs hnone,
    fun _ _ hs h ht => offers_of_step_ends_running hs h ht⟩

end Sys2Proof.Machine
end

section
/-!
The decoder and the encoder against one list of the opcode map's rows (R85, R92): every first byte reads by exactly one of
them, and the encoder writes the byte of one of them. From it: decoding undoes encoding, and encoding a decoded instruction
gives its bytes back but for the bits that are not decoded.
-/

namespace Sys2Proof

/-! ## The fields of a byte built from its fields -/

@[simp] theorem fieldMid_byteOf (major : BitVec 2) (mid low : BitVec 3) : fieldMid (byteOf major mid low) = mid := by
  revert major mid low
  decide

@[simp] theorem fieldT_byteOf (major : BitVec 2) (mid low : BitVec 3) :
    fieldT (byteOf major mid low) = (mid.extractLsb' 2 1 == 1) := by
  revert major mid low
  decide

@[simp] theorem fieldCC_byteOf (major : BitVec 2) (mid low : BitVec 3) :
    fieldCC (byteOf major mid low) = mid.extractLsb' 0 2 := by
  revert major mid low
  decide

@[simp] theorem extractLsb'_T_midOfCond (t : BitVec 1) (c : Cond) : (midOfCond t c).extractLsb' 2 1 = t := by
  cases c <;> revert t <;> decide

@[simp] theorem extractLsb'_CC_midOfCond (t : BitVec 1) (c : Cond) : (midOfCond t c).extractLsb' 0 2 = c.code := by
  cases c <;> revert t <;> decide

@[simp] theorem extractLsb'_T_one (xx : BitVec 2) : BitVec.extractLsb' 2 1 (1#1 ++ xx) = 1 := by
  revert xx
  decide

@[simp] theorem extractLsb'_CC_one (xx : BitVec 2) : BitVec.extractLsb' 0 2 (1#1 ++ xx) = xx := by
  revert xx
  decide

@[simp] theorem Reg.ofCode_seven : Reg.ofCode 7#3 = none := rfl

/-- A middle field is its T/F bit above its condition (R84). -/
theorem midOfCond_fields (mid : BitVec 3) :
    midOfCond (mid.extractLsb' 2 1) (Cond.ofCode (mid.extractLsb' 0 2)) = mid := by
  revert mid
  decide

/-- A byte `01 XXX XX1` is that of INP or OUT with its own RR and MMM (R81). -/
theorem ioByte_fields (mid low : BitVec 3) (h : low.extractLsb' 0 1 = 1) :
    ioByte (fieldRR (byteOf 1 mid low)) (fieldMMM (byteOf 1 mid low)) = byteOf 1 mid low := by
  revert mid low
  decide

/-- The length law of R90 on the fields of the first byte. -/
theorem insnSize_byteOf (major : BitVec 2) (mid low : BitVec 3) :
    insnSize (byteOf major mid low) =
      if major = 0 ∧ (low = 4 ∨ low = 6) then .two
      else if major = 1 ∧ low.extractLsb' 0 1 = 0 then .three
      else .one := by
  revert major mid low
  decide

/-- INP and OUT have one byte. -/
theorem insnSize_ioByte (rr : BitVec 2) (mmm : BitVec 3) : insnSize (ioByte rr mmm) = .one := by
  revert rr mmm
  decide

/-! ## The rows -/

/-- The rows of R85 as a relation: with the second and third byte `b2` and `b3`, the first byte begins the instruction. -/
inductive Reads (b2 b3 : Byte) : Byte → Instr → Prop
  | lr1r2 (d s : Reg) : Reads b2 b3 (byteOf 3 d.code s.code) (.lr1r2 d s)
  | lrM (d : Reg) : Reads b2 b3 (byteOf 3 d.code 7) (.lrM d)
  | lMr (s : Reg) : Reads b2 b3 (byteOf 3 7 s.code) (.lMr s)
  | hltFF : Reads b2 b3 (byteOf 3 7 7) .hltFF
  | aluR (p : AluOp) (r : Reg) : Reads b2 b3 (byteOf 2 p.code r.code) (Instr.aluR p r)
  | aluM (p : AluOp) : Reads b2 b3 (byteOf 2 p.code 7) (Instr.aluM p)
  | aluI (p : AluOp) : Reads b2 b3 (byteOf 0 p.code 4) (Instr.aluI p b2)
  | hlt (low : BitVec 3) (h : low = 0 ∨ low = 1) : Reads b2 b3 (byteOf 0 0 low) .hlt
  | inr (d : Reg) (h : d ≠ .A) : Reads b2 b3 (byteOf 0 d.code 0) (.inr d)
  | dcr (d : Reg) (h : d ≠ .A) : Reads b2 b3 (byteOf 0 d.code 1) (.dcr d)
  | unspec38 : Reads b2 b3 (byteOf 0 7 0) .unspec38
  | unspec39 : Reads b2 b3 (byteOf 0 7 1) .unspec39
  | rlc : Reads b2 b3 (byteOf 0 0 2) .rlc
  | rrc : Reads b2 b3 (byteOf 0 1 2) .rrc
  | ral : Reads b2 b3 (byteOf 0 2 2) .ral
  | rar : Reads b2 b3 (byteOf 0 3 2) .rar
  | unspecRotate (xx : BitVec 2) : Reads b2 b3 (byteOf 0 (1#1 ++ xx) 2) (.unspecRotate xx)
  | rfc (c : Cond) : Reads b2 b3 (byteOf 0 (midOfCond 0 c) 3) (.rfc c)
  | rtc (c : Cond) : Reads b2 b3 (byteOf 0 (midOfCond 1 c) 3) (.rtc c)
  | rst (aaa : BitVec 3) : Reads b2 b3 (byteOf 0 aaa 5) (.rst aaa)
  | lrI (d : Reg) : Reads b2 b3 (byteOf 0 d.code 6) (.lrI d b2)
  | lMI : Reads b2 b3 (byteOf 0 7 6) (.lMI b2)
  | ret (x : BitVec 3) : Reads b2 b3 (byteOf 0 x 7) .ret
  | jfc (c : Cond) : Reads b2 b3 (byteOf 1 (midOfCond 0 c) 0) (.jfc c (assembleAddr b2 b3))
  | jtc (c : Cond) : Reads b2 b3 (byteOf 1 (midOfCond 1 c) 0) (.jtc c (assembleAddr b2 b3))
  | cfc (c : Cond) : Reads b2 b3 (byteOf 1 (midOfCond 0 c) 2) (.cfc c (assembleAddr b2 b3))
  | ctc (c : Cond) : Reads b2 b3 (byteOf 1 (midOfCond 1 c) 2) (.ctc c (assembleAddr b2 b3))
  | jmp (x : BitVec 3) : Reads b2 b3 (byteOf 1 x 4) (.jmp (assembleAddr b2 b3))
  | cal (x : BitVec 3) : Reads b2 b3 (byteOf 1 x 6) (.cal (assembleAddr b2 b3))
  | inp (mmm : BitVec 3) : Reads b2 b3 (ioByte 0 mmm) (.inp mmm)
  | out (rr : BitVec 2) (mmm : BitVec 3) (h : rr ≠ 0) : Reads b2 b3 (ioByte rr mmm) (.out rr mmm)

/-- The decoder's answer on a byte of INP or OUT. -/
theorem decodeOp_ioByte (rr : BitVec 2) (mmm : BitVec 3) (b2 b3 : Byte) :
    decodeOp (ioByte rr mmm) b2 b3 = if rr = 0 then .inp mmm else .out rr mmm := by
  have hmajor : fieldMajor (ioByte rr mmm) = 1 := by revert rr mmm; decide
  have hrr : fieldRR (ioByte rr mmm) = rr := by revert rr mmm; decide
  have hmmm : fieldMMM (ioByte rr mmm) = mmm := by revert rr mmm; decide
  have hlow : (fieldLow (ioByte rr mmm)).toNat % 2 = 1 := by revert rr mmm; decide
  rw [decodeOp_of_major_one b2 b3 hmajor, decodeGroup1, hrr, hmmm]
  split
  case h_5 => rfl
  all_goals omega

/-- The decoder reads every row as it stands. -/
theorem Reads.decodeOp_eq {b2 b3 op : Byte} {i : Instr} (h : Reads b2 b3 op i) : decodeOp op b2 b3 = i := by
  cases h with
  | inp mmm => simp [decodeOp_ioByte]
  | out rr mmm h => rw [decodeOp_ioByte, if_neg h]
  | inr d h | dcr d h =>
    cases d
    case A => exact absurd rfl h
    all_goals rfl
  | hlt low h => obtain rfl | rfl := h <;> rfl
  | lr1r2 | lrM | lMr | hltFF => simp [decodeOp, decodeGroup3]
  | aluR | aluM => simp [decodeOp, decodeGroup2]
  | jfc | jtc | cfc | ctc | jmp | cal => simp [decodeOp, decodeGroup1]
  | _ => simp [decodeOp, decodeGroup0]

/-! ## Every first byte has a row -/

/-- A 3-bit field names a register or M (R21, R22). -/
theorem regField_cases (f : BitVec 3) : (∃ r : Reg, f = r.code) ∨ f = 7 := by
  cases h : Reg.ofCode f with
  | some r => exact .inl ⟨r, (Reg.code_of_ofCode f r h).symm⟩
  | none => exact .inr ((Reg.ofCode_eq_none_iff f).mp h)

/-- A middle field is a condition below a T/F bit of 0 or of 1 (R84). -/
theorem condField_cases (f : BitVec 3) : (∃ c, f = midOfCond 0 c) ∨ ∃ c, f = midOfCond 1 c := by
  have hf := midOfCond_fields f
  obtain ht | ht : f.extractLsb' 2 1 = 0 ∨ f.extractLsb' 2 1 = 1 := by revert f; decide
  · exact .inl ⟨_, by rw [← ht, hf]⟩
  · exact .inr ⟨_, by rw [← ht, hf]⟩

/-- The middle field of the minor opcode 010 names one of the four rotates or an unspecified byte (R93). -/
theorem rotateField_cases (f : BitVec 3) : f = 0 ∨ f = 1 ∨ f = 2 ∨ f = 3 ∨ ∃ xx : BitVec 2, f = 1#1 ++ xx := by
  revert f
  decide

theorem bitVec_three_cases (f : BitVec 3) : f = 0 ∨ f = 1 ∨ f = 2 ∨ f = 3 ∨ f = 4 ∨ f = 5 ∨ f = 6 ∨ f = 7 := by
  revert f
  decide

/-- Major group 00, one minor opcode after the other. -/
theorem exists_reads_of_major_zero (mid low : BitVec 3) (b2 b3 : Byte) : ∃ i, Reads b2 b3 (byteOf 0 mid low) i := by
  obtain rfl | rfl | rfl | rfl | rfl | rfl | rfl | rfl := bitVec_three_cases low
  case inl =>
    obtain ⟨d, rfl⟩ | rfl := regField_cases mid
    · by_cases hA : d = .A
      · subst hA
        exact ⟨_, .hlt 0 (.inl rfl)⟩
      · exact ⟨_, .inr d hA⟩
    · exact ⟨_, .unspec38⟩
  case inr.inl =>
    obtain ⟨d, rfl⟩ | rfl := regField_cases mid
    · by_cases hA : d = .A
      · subst hA
        exact ⟨_, .hlt 1 (.inr rfl)⟩
      · exact ⟨_, .dcr d hA⟩
    · exact ⟨_, .unspec39⟩
  case inr.inr.inl =>
    obtain rfl | rfl | rfl | rfl | ⟨xx, rfl⟩ := rotateField_cases mid
    exacts [⟨_, .rlc⟩, ⟨_, .rrc⟩, ⟨_, .ral⟩, ⟨_, .rar⟩, ⟨_, .unspecRotate xx⟩]
  case inr.inr.inr.inl =>
    obtain ⟨c, rfl⟩ | ⟨c, rfl⟩ := condField_cases mid
    exacts [⟨_, .rfc c⟩, ⟨_, .rtc c⟩]
  case inr.inr.inr.inr.inl => exact ⟨_, by simpa using Reads.aluI (b2 := b2) (b3 := b3) (AluOp.ofCode mid)⟩
  case inr.inr.inr.inr.inr.inl => exact ⟨_, .rst mid⟩
  case inr.inr.inr.inr.inr.inr.inl =>
    obtain ⟨d, rfl⟩ | rfl := regField_cases mid
    exacts [⟨_, .lrI d⟩, ⟨_, .lMI⟩]
  case inr.inr.inr.inr.inr.inr.inr => exact ⟨_, .ret mid⟩

theorem exists_reads_ioByte (rr : BitVec 2) (mmm : BitVec 3) (b2 b3 : Byte) : ∃ i, Reads b2 b3 (ioByte rr mmm) i := by
  by_cases hrr : rr = 0
  · subst hrr
    exact ⟨_, .inp mmm⟩
  · exact ⟨_, .out rr mmm hrr⟩

/-- Major group 01: INP and OUT have every odd minor opcode, and the jumps and calls the even ones. -/
theorem exists_reads_of_major_one (mid low : BitVec 3) (b2 b3 : Byte) : ∃ i, Reads b2 b3 (byteOf 1 mid low) i := by
  by_cases hodd : low.extractLsb' 0 1 = 1
  · rw [← ioByte_fields mid low hodd]
    exact exists_reads_ioByte _ _ b2 b3
  · obtain rfl | rfl | rfl | rfl : low = 0 ∨ low = 2 ∨ low = 4 ∨ low = 6 := by
      revert low
      decide
    · obtain ⟨c, rfl⟩ | ⟨c, rfl⟩ := condField_cases mid
      exacts [⟨_, .jfc c⟩, ⟨_, .jtc c⟩]
    · obtain ⟨c, rfl⟩ | ⟨c, rfl⟩ := condField_cases mid
      exacts [⟨_, .cfc c⟩, ⟨_, .ctc c⟩]
    · exact ⟨_, .jmp mid⟩
    · exact ⟨_, .cal mid⟩

/-- Major group 10: an operation on a register or on M. -/
theorem exists_reads_of_major_two (mid low : BitVec 3) (b2 b3 : Byte) : ∃ i, Reads b2 b3 (byteOf 2 mid low) i := by
  rw [← AluOp.code_ofCode mid]
  obtain ⟨r, rfl⟩ | rfl := regField_cases low
  exacts [⟨_, .aluR _ r⟩, ⟨_, .aluM _⟩]

/-- Major group 11: a load between registers and M, or HLT. -/
theorem exists_reads_of_major_three (mid low : BitVec 3) (b2 b3 : Byte) : ∃ i, Reads b2 b3 (byteOf 3 mid low) i := by
  obtain ⟨d, rfl⟩ | rfl := regField_cases mid <;> obtain ⟨r, rfl⟩ | rfl := regField_cases low
  exacts [⟨_, .lr1r2 d r⟩, ⟨_, .lrM d⟩, ⟨_, .lMr r⟩, ⟨_, .hltFF⟩]

/-- The instruction the decoder answers is read by one of the rows. -/
theorem decodeOp_reads (op b2 b3 : Byte) : Reads b2 b3 op (decodeOp op b2 b3) := by
  have hrow : ∃ i, Reads b2 b3 op i := by
    rw [← byteOf_fields op]
    obtain h | h | h | h : fieldMajor op = 0 ∨ fieldMajor op = 1 ∨ fieldMajor op = 2 ∨ fieldMajor op = 3 := by
      generalize fieldMajor op = major
      revert major
      decide
    all_goals rw [h]
    exacts [exists_reads_of_major_zero _ _ b2 b3, exists_reads_of_major_one _ _ b2 b3,
      exists_reads_of_major_two _ _ b2 b3, exists_reads_of_major_three _ _ b2 b3]
  obtain ⟨i, hi⟩ := hrow
  rwa [hi.decodeOp_eq]

/-! ## Decoding what was encoded -/

theorem decode_one {op : Byte} {i : Instr} (rest : List Byte) (hsize : insnSize op = .one) (h : Reads 0 0 op i) :
    decode (op :: rest) = .ok (i, rest) := by
  rw [← h.decodeOp_eq]
  simp [decode, hsize]

theorem decode_two {op b2 : Byte} {i : Instr} (rest : List Byte) (hsize : insnSize op = .two) (h : Reads b2 0 op i) :
    decode (op :: b2 :: rest) = .ok (i, rest) := by
  rw [← h.decodeOp_eq]
  simp [decode, hsize]

theorem decode_three {op b2 b3 : Byte} {i : Instr} (rest : List Byte) (hsize : insnSize op = .three)
    (h : Reads b2 b3 op i) : decode (op :: b2 :: b3 :: rest) = .ok (i, rest) := by
  rw [← h.decodeOp_eq]
  simp [decode, hsize]

/-- The address of format F3 as a number (R58, D7). -/
theorem assembleAddr_toNat (low high : Byte) : (assembleAddr low high).toNat = (high.toNat % 64) * 256 + low.toNat := by
  have happend : (assembleAddr low high).toNat = (high.extractLsb' 0 6).toNat <<< 8 ||| low.toNat :=
    BitVec.toNat_append (high.extractLsb' 0 6) low
  rw [happend, ← Nat.shiftLeft_add_eq_or_of_lt low.isLt, Nat.shiftLeft_eq, BitVec.extractLsb'_toNat]
  simp
/-- The two address bytes of an address, put together, are the address (R58, R83). -/
@[simp] theorem assembleAddr_addrBytes (a : Addr) :
    assembleAddr (a.extractLsb' 0 8) ((a.extractLsb' 8 6).zeroExtend 8) = a := by
  apply BitVec.eq_of_toNat_eq
  rw [assembleAddr_toNat]
  simp [Nat.shiftRight_eq_div_pow]
  omega

/-- Taking two address bytes apart gives them back but for bits 7 and 6 of the higher one (D7). -/
theorem addrBytes_assembleAddr (b2 b3 : Byte) : addrBytes (assembleAddr b2 b3) = [b2, b3 &&& 0x3F] := by
  have hlow : (assembleAddr b2 b3).extractLsb' 0 8 = b2 := by
    apply BitVec.eq_of_toNat_eq
    rw [BitVec.extractLsb'_toNat, assembleAddr_toNat]
    simpa using b2.isLt
  have hhigh : ((assembleAddr b2 b3).extractLsb' 8 6).zeroExtend 8 = b3 &&& 0x3F := by
    apply BitVec.eq_of_toNat_eq
    have hmask : (b3 &&& 0x3F).toNat = b3.toNat % 64 := Nat.and_two_pow_sub_one_eq_mod b3.toNat 6
    rw [hmask, BitVec.toNat_setWidth, BitVec.extractLsb'_toNat, assembleAddr_toNat, Nat.shiftRight_eq_div_pow]
    have := b2.isLt
    omega
  rw [addrBytes, hlow, hhigh]

/-- The instructions of format F3 come back with their address. -/
theorem decode_addrBytes {op : Byte} {f : Addr → Instr} (a : Addr) (rest : List Byte) (hsize : insnSize op = .three)
    (h : ∀ b2 b3, Reads b2 b3 op (f (assembleAddr b2 b3))) :
    decode ((op :: addrBytes a) ++ rest) = .ok (f a, rest) := by
  have hread := h (a.extractLsb' 0 8) ((a.extractLsb' 8 6).zeroExtend 8)
  rw [assembleAddr_addrBytes] at hread
  exact decode_three rest hsize hread

theorem decode_encodeAluR (p : AluOp) (r : Reg) (rest : List Byte) :
    decode (encodeAluR p r ++ rest) = .ok (Instr.aluR p r, rest) :=
  decode_one rest (insnSize_byteOf 2 p.code r.code) (.aluR p r)

theorem decode_encodeAluM (p : AluOp) (rest : List Byte) : decode (encodeAluM p ++ rest) = .ok (Instr.aluM p, rest) :=
  decode_one rest (insnSize_byteOf 2 p.code 7) (.aluM p)

theorem decode_encodeAluI (p : AluOp) (v : Byte) (rest : List Byte) :
    decode (encodeAluI p v ++ rest) = .ok (Instr.aluI p v, rest) :=
  decode_two rest (insnSize_byteOf 0 p.code 4) (.aluI p)

/-- Settles O1: the encoder writes each instruction by its row, and the decoder reads by the same row. -/
theorem decodeOfEncodeIsTheInstruction : Obligations.DecodeOfEncodeIsTheInstruction := by
  intro i hwf rest
  cases i with
  | adr r | acr r | sur r | sbr r | ndr r | xrr r | orr r | cpr r => exact decode_encodeAluR _ r rest
  | adm | acm | sum | sbm | ndm | xrm | orm | cpm => exact decode_encodeAluM _ rest
  | adi v | aci v | sui v | sbi v | ndi v | xri v | ori v | cpi v => exact decode_encodeAluI _ v rest
  | jmp a => exact decode_addrBytes a rest (insnSize_byteOf 1 _ _) fun _ _ => .jmp 0
  | cal a => exact decode_addrBytes a rest (insnSize_byteOf 1 _ _) fun _ _ => .cal 0
  | jfc c a => exact decode_addrBytes a rest (insnSize_byteOf 1 _ _) fun _ _ => .jfc c
  | jtc c a => exact decode_addrBytes a rest (insnSize_byteOf 1 _ _) fun _ _ => .jtc c
  | cfc c a => exact decode_addrBytes a rest (insnSize_byteOf 1 _ _) fun _ _ => .cfc c
  | ctc c a => exact decode_addrBytes a rest (insnSize_byteOf 1 _ _) fun _ _ => .ctc c
  | lrI d v => exact decode_two rest (insnSize_byteOf 0 _ _) (.lrI d)
  | lMI v => exact decode_two rest (insnSize_byteOf 0 _ _) .lMI
  | inr d => exact decode_one rest (insnSize_byteOf 0 _ _) (.inr d (by simpa [Instr.wellFormed] using hwf))
  | dcr d => exact decode_one rest (insnSize_byteOf 0 _ _) (.dcr d (by simpa [Instr.wellFormed] using hwf))
  | out rr mmm => exact decode_one rest (insnSize_ioByte rr mmm) (.out rr mmm (by simpa [Instr.wellFormed] using hwf))
  | inp mmm => exact decode_one rest (insnSize_ioByte 0 mmm) (.inp mmm)
  | lr1r2 d s => exact decode_one rest (insnSize_byteOf 3 _ _) (.lr1r2 d s)
  | lrM d => exact decode_one rest (insnSize_byteOf 3 _ _) (.lrM d)
  | lMr r => exact decode_one rest (insnSize_byteOf 3 _ _) (.lMr r)
  | hltFF => exact decode_one rest (insnSize_byteOf 3 _ _) .hltFF
  | rlc => exact decode_one rest (insnSize_byteOf 0 _ _) .rlc
  | rrc => exact decode_one rest (insnSize_byteOf 0 _ _) .rrc
  | ral => exact decode_one rest (insnSize_byteOf 0 _ _) .ral
  | rar => exact decode_one rest (insnSize_byteOf 0 _ _) .rar
  | ret => exact decode_one rest (insnSize_byteOf 0 _ _) (.ret 0)
  | rfc c => exact decode_one rest (insnSize_byteOf 0 _ _) (.rfc c)
  | rtc c => exact decode_one rest (insnSize_byteOf 0 _ _) (.rtc c)
  | rst aaa => exact decode_one rest (insnSize_byteOf 0 _ _) (.rst aaa)
  | hlt => exact decode_one rest (insnSize_byteOf 0 _ _) (.hlt 0 (.inl rfl))
  | unspecRotate xx => exact decode_one rest (insnSize_byteOf 0 _ _) (.unspecRotate xx)
  | unspec38 => exact decode_one rest (insnSize_byteOf 0 _ _) .unspec38
  | unspec39 => exact decode_one rest (insnSize_byteOf 0 _ _) .unspec39

/-! ## Encoding what was decoded -/

/-- The bytes of HLT, with the bit that is not decoded masked off (R94). -/
theorem byteOf_and_FE {low : BitVec 3} (h : low = 0 ∨ low = 1) : byteOf 0 0 low &&& 0xFE = byteOf 0 0 0 := by
  obtain rfl | rfl := h <;> rfl

/-- A first byte with its middle field masked off (R94). -/
theorem byteOf_and_C7 (major : BitVec 2) (mid low : BitVec 3) : byteOf major mid low &&& 0xC7 = byteOf major 0 low := by
  revert major mid low
  decide

/-- Settles O2, row by row: the encoder writes the row's byte, with 0 for the bits that are not decoded. -/
theorem encodeOfDecodeIsTheBytes : Obligations.EncodeOfDecodeIsTheBytes := by
  intro op b2 b3
  have hread := decodeOp_reads op b2 b3
  generalize decodeOp op b2 b3 = i at hread
  cases hread with
  | aluR p r =>
    rw [insnSize_byteOf]
    cases p <;> exact ⟨rfl, rfl, rfl⟩
  | aluM p | aluI p => cases p <;> exact ⟨rfl, rfl, rfl⟩
  | inp mmm =>
    rw [insnSize_ioByte]
    exact ⟨rfl, rfl, rfl⟩
  | out rr mmm h =>
    rw [insnSize_ioByte]
    exact ⟨bne_iff_ne.mpr h, rfl, rfl⟩
  | inr d h | dcr d h =>
    rw [insnSize_byteOf]
    exact ⟨bne_iff_ne.mpr h, rfl, rfl⟩
  | hlt low h => exact ⟨rfl, congrArg some (byteOf_and_FE h).symm, by obtain rfl | rfl := h <;> rfl⟩
  | ret x => exact ⟨rfl, congrArg some (byteOf_and_C7 0 x 7).symm, by rw [insnSize_byteOf]; rfl⟩
  | jmp x => exact ⟨rfl, congrArg some (byteOf_and_C7 1 x 4).symm, by rw [insnSize_byteOf]; exact addrBytes_assembleAddr b2 b3⟩
  | cal x => exact ⟨rfl, congrArg some (byteOf_and_C7 1 x 6).symm, by rw [insnSize_byteOf]; exact addrBytes_assembleAddr b2 b3⟩
  | jfc c | jtc c | cfc c | ctc c =>
    rw [insnSize_byteOf]
    exact ⟨rfl, rfl, addrBytes_assembleAddr b2 b3⟩
  | _ =>
    rw [insnSize_byteOf]
    exact ⟨rfl, rfl, rfl⟩

end Sys2Proof
end

section
/-!
What the decoder takes and rejects (R80, R90, R96), and the table of its rows.
-/

namespace Sys2Proof

/-! ## The rows of the table -/

/-- The rows of the table that cover a first byte, by their place. -/
def coveringRows (op : Byte) : List Nat :=
  (List.range opcodeRows.length).filter fun k => opcodeRows[k]?.any fun row => row.covers op

theorem mem_coveringRows_iff (op : Byte) (k : Nat) :
    k ∈ coveringRows op ↔ ∃ row, opcodeRows[k]? = some row ∧ row.covers op = true := by
  have hlen (row : OpcodeRow) (h : opcodeRows[k]? = some row) : k < opcodeRows.length :=
    (List.getElem?_eq_some_iff.mp h).1
  simp only [coveringRows, List.mem_filter, List.mem_range, Option.any_eq_true]
  exact ⟨fun h => h.2, fun ⟨row, h, hc⟩ => ⟨hlen row h, row, h, hc⟩⟩

theorem decodeGroup0_row (op b2 : Byte) : (decodeGroup0 op b2).row = (decodeGroup0 op 0).row := by
  unfold decodeGroup0
  split
  case h_5 => cases AluOp.ofCode (fieldMid op) <;> rfl
  case h_7 => split <;> rfl
  all_goals rfl

theorem decodeGroup1_row (op b2 b3 : Byte) : (decodeGroup1 op b2 b3).row = (decodeGroup1 op 0 0).row := by
  unfold decodeGroup1
  split
  case h_1 => split <;> rfl
  case h_2 => split <;> rfl
  all_goals rfl

/-- The bytes after the first are operands and do not choose the row. -/
theorem decodeOp_row (op b2 b3 : Byte) : (decodeOp op b2 b3).row = (decodeOp op 0 0).row := by
  unfold decodeOp
  split
  case h_1 => exact decodeGroup0_row op b2
  case h_2 => exact decodeGroup1_row op b2 b3
  all_goals rfl

/-- The table against the decoder on the 256 first bytes. -/
theorem coveringRows_eq (op : Byte) : coveringRows op = [(decodeOp op 0 0).row] := by
  revert op
  decide

/-- Settles O4: the table and the decoder agree on every first byte, and the bytes after it do not choose the row. -/
theorem everyFirstByteIsInOneRow : Obligations.EveryFirstByteIsInOneRow := by
  intro op b2 b3 k
  rw [← mem_coveringRows_iff, coveringRows_eq, List.mem_singleton, decodeOp_row op b2 b3]

/-! ## Lengths -/

/-- The length law of R90 in numbers. -/
theorem insnSize_bytes (op : Byte) :
    (insnSize op).bytes =
      if op.toNat / 64 = 0 ∧ (op.toNat % 8 = 4 ∨ op.toNat % 8 = 6) then 2
      else if op.toNat / 64 = 1 ∧ op.toNat % 2 = 0 then 3
      else 1 := by
  revert op
  decide

/-- Settles O5: the length law, and a count over the 256 first bytes. -/
theorem firstByteFixesTheLength : Obligations.FirstByteFixesTheLength :=
  ⟨insnSize_bytes, fun op => (insnSize op).bytes_le, rfl, rfl, rfl⟩

/-- Settles O6, by the length the first byte asks for and the bytes there are. -/
theorem decodeTakesTheWholeInstruction : Obligations.DecodeTakesTheWholeInstruction := by
  refine ⟨rfl, fun op more => ?_⟩
  cases hsize : insnSize op with
  | one => exact .inr ⟨_, [], more, rfl, rfl, fun other => decode_one other hsize (decodeOp_reads op 0 0)⟩
  | two =>
    match more with
    | [] => exact .inl ⟨by decide, by simp [decode, hsize]⟩
    | b2 :: rest => exact .inr ⟨_, [b2], rest, rfl, rfl, fun other => decode_two other hsize (decodeOp_reads op b2 0)⟩
  | three =>
    match more with
    | [] | [b2] => exact .inl ⟨by simp [InsnSize.bytes], by simp [decode, hsize]⟩
    | b2 :: b3 :: rest =>
      exact .inr ⟨_, [b2, b3], rest, rfl, rfl, fun other => decode_three other hsize (decodeOp_reads op b2 b3)⟩

/-! ## Field codes and words -/

/-- Settles O7: the three tables, read off their definitions. -/
theorem fieldCodes : Obligations.FieldCodes :=
  ⟨rfl, rfl, fun _ => ⟨rfl, rfl, rfl, rfl⟩⟩

/-- Settles O8: the decoder evaluated on each word. -/
theorem sampleWordsDecode : Obligations.SampleWordsDecode := by
  and_intros
  all_goals rfl

end Sys2Proof
end

section
/-!
The shared shapes of the instructions' effects, each said once: the work on the way, which only the cycle record, the test
output and temporary b show, and then the one write of the result. Then the index register instructions (R113 to R117).
-/

namespace Sys2Proof.Machine

/-! ## The work on the way -/

/-- Between `s` and `u` an instruction has done its work on the way: cycles, transfers through temporary b and what the bus
shows of them. No register, flip-flop, stack entry or byte of memory is written yet. -/
structure OnTheWay (s u : State) : Prop where
  regs : SameRegs s u
  flags : SameFlags s u
  stack : SameStack s u
  mem : SameMem s u
  control : SameControl s u
  tmpA : u.tmpA = s.tmpA
  states : u.states = s.states

theorem OnTheWay.refl (s : State) : OnTheWay s s :=
  ⟨fun _ => rfl, fun _ => rfl, ⟨rfl, rfl⟩, fun _ => rfl, ⟨rfl, rfl, rfl, rfl, rfl⟩, rfl, rfl⟩

theorem OnTheWay.trans {s u w : State} (h : OnTheWay s u) (h' : OnTheWay u w) : OnTheWay s w where
  regs r := (h'.regs r).trans (h.regs r)
  flags c := (h'.flags c).trans (h.flags c)
  stack := ⟨h'.stack.1.trans h.stack.1, h'.stack.2.trans h.stack.2⟩
  mem a := (h'.mem a).trans (h.mem a)
  control := by
    obtain ⟨hir, hstopped, hmap, hoffers, hdrawn⟩ := h.control
    obtain ⟨hir', hstopped', hmap', hoffers', hdrawn'⟩ := h'.control
    exact ⟨hir'.trans hir, hstopped'.trans hstopped, hmap'.trans hmap, hoffers'.trans hoffers, hdrawn'.trans hdrawn⟩
  tmpA := h'.tmpA.trans h.tmpA
  states := h'.states.trans h.states

theorem BringsToB.onTheWay {v : Byte} {s u : State} (h : BringsToB v s u) : OnTheWay s u :=
  ⟨h.regs, h.flags, h.stack, h.mem, h.control, h.tmpA, h.states⟩

theorem OnTheWay.bringsToB {v : Byte} {s u : State} (h : OnTheWay s u) (hb : u.tmpB = v) : BringsToB v s u :=
  ⟨h.regs, h.flags, h.stack, h.mem, h.control, h.tmpA, hb, h.states⟩

theorem State.showBus_onTheWay (s : State) (c : Cycle) (p : TState) (v : Byte) : OnTheWay s (s.showBus c p v) where
  regs _ := by simp
  flags _ := by simp
  stack := ⟨rfl, rfl⟩
  mem _ := rfl
  control := ⟨rfl, rfl, rfl, rfl, rfl⟩
  tmpA := rfl
  states := rfl

theorem State.showOpens_onTheWay (s : State) (c : Cycle) : OnTheWay s (s.showOpens c) :=
  (s.showBus_onTheWay c .T4 s.openByte).trans (State.showBus_onTheWay _ c .T5 _)

theorem State.showTarget_onTheWay (s : State) : OnTheWay s s.showTarget :=
  (s.showBus_onTheWay .three .T4 s.tmpA).trans (State.showBus_onTheWay _ .three .T5 _)

theorem State.setTmpB_onTheWay (s : State) (v : Byte) : OnTheWay s (s.setTmpB v) where
  regs _ := by simp
  flags _ := by simp
  stack := ⟨rfl, rfl⟩
  mem _ := rfl
  control := ⟨rfl, rfl, rfl, rfl, rfl⟩
  tmpA := rfl
  states := rfl

theorem State.memRead_onTheWay (s : State) (k : ReadKind) (a : Addr) : OnTheWay s (s.memRead k a).2 where
  regs _ := by simp
  flags _ := by simp
  stack := ⟨by simp, by simp⟩
  mem _ := by simp
  control := by simp [sameControl_iff]
  tmpA := by simp
  states := by simp

theorem State.ioIn_onTheWay (s : State) (port : Port) : OnTheWay s (s.ioIn port).2 where
  regs _ := by simp
  flags _ := by simp
  stack := ⟨by simp, by simp⟩
  mem _ := by simp
  control := by simp [sameControl_iff]
  tmpA := by simp
  states := by simp

/-- The immediate stands in temporary b from its fetch on (R114, R115). -/
theorem State.setTmpB_bringsToB (s : State) (v : Byte) : BringsToB v s (s.setTmpB v) :=
  (s.setTmpB_onTheWay v).bringsToB rfl

/-! ## Stores -/

/-- Between `s` and `t` the byte `v` went through temporary b to memory, in `n` states, and no register, flip-flop or stack
entry was written. -/
structure StoresThroughB (v : Byte) (n : Nat) (s t : State) : Prop where
  regs : SameRegs s t
  flags : SameFlags s t
  stack : SameStack s t
  others : SameMemBut s.mAddr s t
  control : SameControl s t
  tmpA : t.tmpA = s.tmpA
  tmpB : t.tmpB = v
  took : Took n s t

/-- The write cycle and the end of the instruction complete a store (R113, R115). -/
theorem BringsToB.stores {v : Byte} {s u : State} (h : BringsToB v s u) (n : Nat) :
    StoresThroughB v n s ((u.memWrite s.mAddr v).complete n) where
  regs q := by simp [h.regs q]
  flags c := by simp [h.flags c]
  stack := ⟨by simp [h.stack.1], by simp [h.stack.2]⟩
  others a ha := (u.memWrite_other s.mAddr v a ha).trans (h.mem a)
  control := by simpa [sameControl_iff] using h.control
  tmpA := by simp [h.tmpA]
  tmpB := by simp [h.tmpB]
  took := ⟨by simp [h.states], rfl, rfl⟩

theorem exec_lMr (r : Reg) (s : State) :
    exec (.lMr r) s = .next (((s.regToB r).memWrite s.mAddr (s.reg r)).complete 7) := rfl

theorem exec_lMI (v : Byte) (s : State) :
    exec (.lMI v) s = .next (((s.setTmpB v).memWrite s.mAddr v).complete 9) := rfl

/-- What is written where there is RAM is there for the next read (R66). -/
theorem WritesByte.memRead {a : Addr} {v : Byte} {s t : State} (h : WritesByte a v s t) (hmap : t.memMap = s.memMap)
    (hram : s.kindAt a = .ram) (k : ReadKind) : (t.memRead k a).1 = v := by
  obtain ⟨_, _, _, _, hread⟩ := h
  rw [t.memRead_memory k a ((s.hasMemory_congr t a hmap).mpr (.inl hram)), hread, if_pos hram]

/-- LMr writes its register at the address of M: the transfer to temporary b makes no cycle and moves nothing (R113). -/
theorem exec_lMr_writesByte (r : Reg) (s : State) (h : s.mem.wf = true) :
    WritesByte s.mAddr (s.reg r) s (((s.regToB r).memWrite s.mAddr (s.reg r)).complete 7) :=
  (s.regToB r).memWrite_spec s.mAddr (s.reg r) h

/-- Settles O31: the register comes into temporary b and from there by one write cycle to memory. -/
theorem storeRegisterToMemory : Obligations.StoreRegisterToMemory := by
  intro r s hwf
  have hstore := (s.regToB_bringsToB r).stores 7
  have hwrite := exec_lMr_writesByte r s hwf
  obtain ⟨_, _, hmap, _⟩ := hstore.control
  obtain ⟨hstates, _⟩ := hstore.took
  exact ⟨rfl, insnSize_of_major_three (fieldMajor_byteOf 3 7 r.code), _, exec_lMr r s, hwrite,
    fun hram => hwrite.memRead hmap hram .pci, hstore.regs, hstore.flags, hstore.stack, hstore.control, hstore.tmpA,
    hstore.tmpB, hstates⟩

/-- Settles O33: the immediate goes by one write cycle to memory. -/
theorem storeImmediateToMemory : Obligations.StoreImmediateToMemory := by
  intro v s hwf
  have hstore := (s.setTmpB_bringsToB v).stores 9
  exact ⟨_, exec_lMI v s, (s.setTmpB v).memWrite_spec s.mAddr v hwf, hstore.regs, hstore.flags, hstore.stack,
    hstore.control, hstore.tmpA, hstore.tmpB, hstore.took⟩

/-! ## LrI -/

/-- The state of LrM and LrI before the register is written: the byte in temporary b, T4 of cycle two idle. -/
theorem BringsToB.showOpen {v : Byte} {s u : State} (h : BringsToB v s u) (c : Cycle) (p : TState) :
    BringsToB v s (u.showOpen c p) :=
  (h.onTheWay.trans (u.showBus_onTheWay c p u.openByte)).bringsToB h.tmpB

/-- Settles O32: the immediate goes from temporary b to the register. -/
theorem loadRegisterImmediate : Obligations.LoadRegisterImmediate := by
  intro d v s
  have hload := ((s.setTmpB_bringsToB v).showOpen .two .T4).loads .two d 8
  have hcycle : NoCycle s _ := ((s.setTmpB v).showOpen .two .T4).bToReg_complete_noCycle .two d 8
  exact ⟨_, rfl, hload.dest, hload.others, hload.flags, hload.stack, hload.mem, hload.control, hcycle, hload.tmpA,
    hload.tmpB, hload.states, rfl, rfl⟩

/-! ## INr and DCr -/

/-- Between `s` and `t` an INr or a DCr put `v` into the register `d`, with its zero, sign and parity. -/
structure CountsTo (d : Reg) (v : Byte) (s t : State) : Prop where
  dest : t.reg d = v
  zsp : ZspOf v t
  carry : t.fC = s.fC
  others : SameRegsBut d s t
  stack : SameStack s t
  mem : SameMem s t
  control : SameControl s t
  cycle : NoCycle s t
  tmpA : t.tmpA = s.tmpA
  tmpB : t.tmpB = s.tmpB
  took : Took 5 s t

/-- The effect common to INr and DCr and the end of the instruction (R116, R117). -/
theorem State.countTo_countsTo (s : State) (d : Reg) (v : Byte) (c : Bool) :
    CountsTo d v s ((s.countTo d v c).complete 5) := by
  rw [s.countTo_eq]
  exact
    { dest := by simp
      zsp := ((s.showOpens .one).setReg d v).setZSP_zspOf v
      carry := by simp
      others := fun q hq => by simp [hq]
      stack := ⟨by simp, by simp⟩
      mem := fun _ => by simp
      control := by simp [sameControl_iff]
      cycle := ⟨by simp, by simp, by simp⟩
      tmpA := by simp
      tmpB := by simp
      took := ⟨by simp, rfl, rfl⟩ }

/-- Settles O34: one more, wrapped. -/
theorem incrementRegister : Obligations.IncrementRegister := by
  intro d s
  have h := s.countTo_countsTo d (s.reg d + 1) (s.reg d == 0xFF)
  refine ⟨_, rfl, ?_, h.dest.symm ▸ h.zsp, h.carry, h.others, h.stack, h.mem, h.control, h.cycle, h.tmpA, h.tmpB, h.took⟩
  rw [h.dest, BitVec.toNat_add]
  rfl

/-- Settles O35: one less, wrapped. -/
theorem decrementRegister : Obligations.DecrementRegister := by
  intro d s
  have h := s.countTo_countsTo d (s.reg d - 1) (s.reg d == 0x00)
  refine ⟨_, rfl, ?_, h.dest.symm ▸ h.zsp, h.carry, h.others, h.stack, h.mem, h.control, h.cycle, h.tmpA, h.tmpB, h.took⟩
  rw [h.dest, BitVec.toNat_sub, Nat.add_comm]
  rfl

end Sys2Proof.Machine
end

section
/-!
The accumulator group (R130 to R162): the three forms of the eight operations as one effect, the rotates bit by bit, and the
laws between the operations.
-/

namespace Sys2Proof.Machine

/-! ## The three forms -/

/-- Between `s` and `t` an operation was done on A and `y`, in `n` states. What memory cycles were made is left open. -/
structure DoesAlu (p : AluOp) (y : Byte) (n : Nat) (s t : State) : Prop where
  effect : AluEffect p y s t
  stack : SameStack s t
  mem : SameMem s t
  control : SameControl s t
  tmpA : t.tmpA = s.tmpA
  tmpB : t.tmpB = y
  took : Took n s t

/-- `DoALU` and the end of the instruction complete an operation (R130). -/
theorem OnTheWay.doesAlu {s u : State} (h : OnTheWay s u) (p : AluOp) (y : Byte) (n : Nat) :
    DoesAlu p y n s ((u.doAlu p y).complete n) where
  effect := ((u.doAlu_effect p y).congr_left p y s u _ h.regs (h.flags .C)).complete p y s _ n
  stack := ⟨by simp [h.stack.1], by simp [h.stack.2]⟩
  mem a := by simpa using h.mem a
  control := by simpa [sameControl_iff] using h.control
  tmpA := by simp [h.tmpA]
  tmpB := by simp
  took := ⟨by simp [h.states], rfl, rfl⟩

theorem State.aluReg_doesAlu (s : State) (p : AluOp) (r : Reg) : DoesAlu p (s.reg r) 5 s (s.aluReg p r) :=
  ((s.regToB_bringsToB r).showOpen .one .T5).onTheWay.doesAlu p (s.reg r) 5

theorem State.aluMem_doesAlu (s : State) (p : AluOp) :
    DoesAlu p (s.memRead .pcr s.mAddr).1 8 s (s.aluMem p) :=
  ((s.memRead_onTheWay .pcr s.mAddr).trans (State.showOpens_onTheWay _ .two)).doesAlu p _ 8

theorem State.aluImm_doesAlu (s : State) (p : AluOp) (v : Byte) : DoesAlu p v 8 s (s.aluImm p v) :=
  (s.showOpens_onTheWay .two).doesAlu p v 8

/-- `DoALU` and the end of the instruction make no memory or I/O cycle. -/
theorem State.doAlu_complete_noCycle (u : State) (p : AluOp) (y : Byte) (n : Nat) :
    NoCycle u ((u.doAlu p y).complete n) :=
  ⟨by simp, by simp, by simp⟩

theorem State.aluReg_noCycle (s : State) (p : AluOp) (r : Reg) : NoCycle s (s.aluReg p r) :=
  State.doAlu_complete_noCycle ((s.regToB r).showOpen .one .T5) p (s.reg r) 5

theorem State.aluImm_noCycle (s : State) (p : AluOp) (v : Byte) : NoCycle s (s.aluImm p v) :=
  State.doAlu_complete_noCycle (s.showOpens .two) p v 8

/-- The one memory cycle of form M is the read of M. -/
theorem State.aluMem_readsByte (s : State) (p : AluOp) :
    ReadsByte .pcr s.mAddr (s.memRead .pcr s.mAddr).1 s (s.aluMem p) :=
  (s.memRead_spec .pcr s.mAddr).of_noCycle
    (State.doAlu_complete_noCycle ((s.memRead .pcr s.mAddr).2.showOpens .two) p _ 8)

theorem exec_aluR (p : AluOp) (r : Reg) (s : State) : exec (Instr.aluR p r) s = .next (s.aluReg p r) := by
  cases p <;> rfl

theorem exec_aluM (p : AluOp) (s : State) : exec (Instr.aluM p) s = .next (s.aluMem p) := by
  cases p <;> rfl

theorem exec_aluI (p : AluOp) (v : Byte) (s : State) : exec (Instr.aluI p v) s = .next (s.aluImm p v) := by
  cases p <;> rfl

/-- A list of the eight operations in the order of their numbers, each beside its instruction, holds nothing else. -/
theorem eq_of_mem_aluForms {f : AluOp → Instr} {ip : Instr × AluOp}
    (h : ip ∈ [(f .ad, AluOp.ad), (f .ac, .ac), (f .su, .su), (f .sb, .sb), (f .nd, .nd), (f .xr, .xr), (f .or, .or),
      (f .cp, .cp)]) : ip.1 = f ip.2 := by
  simp only [List.mem_cons, List.not_mem_nil, or_false] at h
  obtain rfl | rfl | rfl | rfl | rfl | rfl | rfl | rfl := h
  all_goals rfl

/-- Settles O36: form r of every operation. -/
theorem aluOnARegister : Obligations.AluOnARegister := by
  intro r s ip hip
  have hform : ip.1 = Instr.aluR ip.2 r := eq_of_mem_aluForms (f := (Instr.aluR · r)) hip
  have h := s.aluReg_doesAlu ip.2 r
  rw [hform, exec_aluR]
  exact ⟨_, rfl, h.effect, h.stack, h.mem, h.control, s.aluReg_noCycle ip.2 r, h.tmpA, h.tmpB, h.took⟩

/-- Settles O37: form M of every operation. -/
theorem aluOnMemory : Obligations.AluOnMemory := by
  intro s ip hip
  have hform : ip.1 = Instr.aluM ip.2 := eq_of_mem_aluForms (f := Instr.aluM) hip
  have h := s.aluMem_doesAlu ip.2
  rw [hform, exec_aluM]
  exact ⟨_, _, rfl, s.aluMem_readsByte ip.2, h.effect, h.stack, h.mem, h.control, h.tmpA, h.tmpB, h.took⟩

/-- Settles O38: form I of every operation. -/
theorem aluOnAnImmediate : Obligations.AluOnAnImmediate := by
  intro v s ip hip
  have hform : ip.1 = Instr.aluI ip.2 v := eq_of_mem_aluForms (f := (Instr.aluI · v)) hip
  have h := s.aluImm_doesAlu ip.2 v
  rw [hform, exec_aluI]
  exact ⟨_, rfl, h.effect, h.stack, h.mem, h.control, s.aluImm_noCycle ip.2 v, h.tmpA, h.tmpB, h.took⟩

/-! ## Compare -/

/-- A compare leaves A and tells by zero and carry how it stands to the operand (R153 to R155). -/
theorem AluEffect.compare {y : Byte} {s t : State} (h : AluEffect .cp y s t) :
    t.rA = s.rA ∧ (t.fZ = true ↔ s.rA = y) ∧ (t.fC = true ↔ s.rA.toNat < y.toNat) := by
  obtain ⟨r, ⟨hr, hcarry⟩, ⟨hzero, _⟩, hA, _⟩ := h
  have hx := s.rA.isLt
  have hy := y.isLt
  refine ⟨hA, hzero.trans ?_, hcarry⟩
  rw [hr, ← BitVec.toNat_inj]
  omega

/-- Settles O41: the three forms of compare have the one effect. -/
theorem compareOrdersTheAccumulator : Obligations.CompareOrdersTheAccumulator := by
  refine ⟨fun r s => ⟨_, rfl, (s.aluReg_doesAlu .cp r).effect.compare⟩, fun s hmem => ⟨_, rfl, ?_⟩,
    fun v s => ⟨_, rfl, (s.aluImm_doesAlu .cp v).effect.compare⟩⟩
  have heffect := (s.aluMem_doesAlu .cp).effect
  rw [s.memRead_memory .pcr s.mAddr hmem] at heffect
  exact heffect.compare

/-! ## Laws between the operations -/

/-- Two results are the same when their numbers and their carries are. -/
theorem AluResult.ext_toNat {a b : AluResult} (hvalue : a.value.toNat = b.value.toNat)
    (hcarry : a.carry = true ↔ b.carry = true) : a = b := by
  obtain ⟨v, c⟩ := a
  obtain ⟨w, d⟩ := b
  rw [AluResult.mk.injEq]
  exact ⟨BitVec.eq_of_toNat_eq hvalue, Bool.eq_iff_iff.mpr hcarry⟩

/-- Settles O42: all of it from what R130 gives each operation in numbers. -/
theorem aluIdentities : Obligations.AluIdentities := by
  intro x y c
  have hx := x.isLt
  have hy := y.isLt
  have hc := c.toNat_lt
  have hnot : (~~~y).toNat = 255 - y.toNat := BitVec.toNat_not
  obtain ⟨hsu, hsuc⟩ := alu_gives .su x y c
  obtain ⟨hsb, hsbc⟩ := alu_gives .sb x y c
  obtain ⟨hsb0, hsbc0⟩ := alu_gives .sb x y false
  refine ⟨?_, ?_, ?_, ?_, rfl, ?_, ?_, rfl, rfl, rfl⟩
  · rw [hsu, hnot]; omega
  · rw [hsuc, hnot]; omega
  · rw [hsb, hnot]; omega
  · rw [hsbc, hnot]; omega
  · rfl
  · refine AluResult.ext_toNat ?_ ?_
    · rw [hsb0, hsu, Bool.toNat_false]; omega
    · rw [hsbc0, hsuc, Bool.toNat_false]; omega

/-- Adding a byte to A and subtracting it again restores A (R130). -/
theorem AluEffect.sub_add {y : Byte} {s t u : State} (hadd : AluEffect .ad y s t) (hsub : AluEffect .su y t u) :
    SameRegs s u := by
  obtain ⟨v, ⟨hv, _⟩, _, hA, hothers⟩ := hadd
  obtain ⟨w, ⟨hw, _⟩, _, hA', hothers'⟩ := hsub
  have hx := s.rA.isLt
  have hy := y.isLt
  have hAv : t.rA = v := hA
  have hAw : u.rA = w := hA'
  intro r
  by_cases hr : r = .A
  · subst hr
    apply BitVec.eq_of_toNat_eq
    rw [State.reg_A, State.reg_A, hAw, hw, hAv, hv]
    omega
  · exact (hothers' r hr).trans (hothers r hr)

/-- Counting a register up and then down restores it and leaves the carry. -/
theorem CountsTo.down_up {d : Reg} {s t u : State} (hup : CountsTo d (s.reg d + 1) s t)
    (hdown : CountsTo d (t.reg d - 1) t u) : SameRegs s u ∧ u.fC = s.fC := by
  refine ⟨fun r => ?_, hdown.carry.trans hup.carry⟩
  by_cases hr : r = d
  · rw [hr, hdown.dest, hup.dest, BitVec.add_sub_cancel]
  · exact (hdown.others r hr).trans (hup.others r hr)

/-- Settles O43: the operand of the second instruction is the register the first left alone, and INr and DCr count up and
down. -/
theorem subtractUndoesAdd : Obligations.SubtractUndoesAdd := by
  refine ⟨fun r s hr => ⟨_, rfl, ?_⟩, fun r s => ⟨_, rfl, ?_⟩⟩
  · have hadd := (s.aluReg_doesAlu .ad r).effect
    have hsub := ((s.aluReg .ad r).aluReg_doesAlu .su r).effect
    have hkept : (s.aluReg .ad r).reg r = s.reg r := by
      obtain ⟨_, _, _, _, hothers⟩ := hadd
      exact hothers r hr
    rw [hkept] at hsub
    exact hadd.sub_add hsub
  · exact (s.countTo_countsTo r (s.reg r + 1) (s.reg r == 0xFF)).down_up (State.countTo_countsTo _ r _ _)

end Sys2Proof.Machine
end

section
/-!
The rotates (R156 to R159): where each bit goes, and what several of them make together. RLC and RRC turn the eight bits of
A, RAL and RAR the nine of A and the carry.
-/

namespace Sys2Proof.Machine

/-! ## The frame -/

/-- Between `s` and `t` a rotate put the bits `f` into A and `c` into the carry. -/
structure RotatesTo (f : Nat → Bool) (c : Bool) (s t : State) : Prop where
  bits : ∀ k : Nat, k < 8 → t.rA.getLsbD k = f k
  carry : t.fC = c
  zero : t.fZ = s.fZ
  sign : t.fS = s.fS
  parity : t.fP = s.fP
  others : SameRegsBut .A s t
  stack : SameStack s t
  mem : SameMem s t
  control : SameControl s t
  cycle : NoCycle s t
  tmpA : t.tmpA = s.tmpA
  tmpB : t.tmpB = s.tmpB
  took : Took 5 s t

/-- The effect common to the four rotates (R156). -/
theorem State.rotateTo_rotatesTo (s : State) {f : Nat → Bool} (v : Byte) (c : Bool)
    (hbits : ∀ k : Nat, k < 8 → v.getLsbD k = f k) : RotatesTo f c s (s.rotateTo v c) where
  bits := hbits
  carry := rfl
  zero := rfl
  sign := rfl
  parity := rfl
  others q hq := by simp [State.rotateTo, hq]
  stack := ⟨rfl, rfl⟩
  mem _ := rfl
  control := ⟨rfl, rfl, rfl, rfl, rfl⟩
  cycle := ⟨rfl, rfl, rfl⟩
  tmpA := rfl
  tmpB := rfl
  took := ⟨rfl, rfl, rfl⟩

/-! ## The bits -/

theorem getLsbD_rlc (a : Byte) (k : Nat) (hk : k < 8) :
    (a.extractLsb' 0 7 ++ a.extractLsb' 7 1).getLsbD k = a.getLsbD ((k + 7) % 8) := by
  rw [BitVec.getLsbD_append]
  interval_cases k <;> simp

theorem getLsbD_rrc (a : Byte) (k : Nat) (hk : k < 8) :
    (a.extractLsb' 0 1 ++ a.extractLsb' 1 7).getLsbD k = a.getLsbD ((k + 1) % 8) := by
  rw [BitVec.getLsbD_append]
  interval_cases k <;> simp

theorem getLsbD_ral (a : Byte) (c : Bool) (k : Nat) (hk : k < 8) :
    (a.extractLsb' 0 7 ++ BitVec.ofBool c).getLsbD k = if k = 0 then c else a.getLsbD (k - 1) := by
  rw [BitVec.getLsbD_append]
  interval_cases k <;> simp

theorem getLsbD_rar (a : Byte) (c : Bool) (k : Nat) (hk : k < 8) :
    (BitVec.ofBool c ++ a.extractLsb' 1 7).getLsbD k = if k = 7 then c else a.getLsbD (k + 1) := by
  rw [BitVec.getLsbD_append]
  interval_cases k <;> simp

theorem exec_rlc (s : State) : ∃ t, exec .rlc s = .next t ∧
    RotatesTo (fun k => s.rA.getLsbD ((k + 7) % 8)) (s.rA.getLsbD 7) s t :=
  ⟨_, rfl, s.rotateTo_rotatesTo _ _ (getLsbD_rlc s.rA)⟩

theorem exec_rrc (s : State) : ∃ t, exec .rrc s = .next t ∧
    RotatesTo (fun k => s.rA.getLsbD ((k + 1) % 8)) (s.rA.getLsbD 0) s t :=
  ⟨_, rfl, s.rotateTo_rotatesTo _ _ (getLsbD_rrc s.rA)⟩

theorem exec_ral (s : State) : ∃ t, exec .ral s = .next t ∧
    RotatesTo (fun k => if k = 0 then s.fC else s.rA.getLsbD (k - 1)) (s.rA.getLsbD 7) s t :=
  ⟨_, rfl, s.rotateTo_rotatesTo _ _ (getLsbD_ral s.rA s.fC)⟩

theorem exec_rar (s : State) : ∃ t, exec .rar s = .next t ∧
    RotatesTo (fun k => if k = 7 then s.fC else s.rA.getLsbD (k + 1)) (s.rA.getLsbD 0) s t :=
  ⟨_, rfl, s.rotateTo_rotatesTo _ _ (getLsbD_rar s.rA s.fC)⟩

/-- Settles O39: the frame is that of every rotate, and the bits are those of its own. -/
theorem rotateBits : Obligations.RotateBits := by
  intro s ib hib
  have hrotates : ∃ t, exec ib.1 s = .next t ∧ RotatesTo ib.2.1 ib.2.2 s t := by
    simp only [List.mem_cons, List.not_mem_nil, or_false] at hib
    obtain rfl | rfl | rfl | rfl := hib
    exacts [exec_rlc s, exec_rrc s, exec_ral s, exec_rar s]
  obtain ⟨t, hexec, h⟩ := hrotates
  exact ⟨t, hexec, h.bits, h.carry, h.zero, h.sign, h.parity, h.others, h.stack, h.mem, h.control, h.cycle, h.tmpA, h.tmpB,
    h.took⟩

/-! ## Several rotates -/

theorem execAll_cons {i : Instr} {s t : State} (rest : List Instr) (h : exec i s = .next t) :
    execAll (i :: rest) s = execAll rest t := by
  simp only [execAll, h]

/-- The ring of nine that RAL and RAR turn: the carry above the bits of A. -/
def State.ringBit (s : State) (k : Nat) : Bool := if k = 8 then s.fC else s.rA.getLsbD k

/-- A and the carry are the nine bits of the ring. -/
theorem eq_of_ringBit_eq {s t : State} (h : ∀ k : Nat, k < 9 → t.ringBit k = s.ringBit k) : t.rA = s.rA ∧ t.fC = s.fC := by
  refine ⟨BitVec.eq_of_getLsbD_eq fun k hk => ?_, h 8 (by omega)⟩
  simpa [State.ringBit, Nat.ne_of_lt hk] using h k (by omega)

/-- RAL turns the ring left by one. -/
theorem exec_ral_ringBit (s : State) :
    ∃ t, exec .ral s = .next t ∧ ∀ k : Nat, k < 9 → t.ringBit k = s.ringBit ((k + 8) % 9) := by
  obtain ⟨t, hexec, h⟩ := exec_ral s
  refine ⟨t, hexec, fun k hk => ?_⟩
  obtain rfl | hk8 : k = 8 ∨ k < 8 := by omega
  · simp [State.ringBit, h.carry]
  · rw [State.ringBit, if_neg (by omega), h.bits k hk8]
    obtain rfl | hk0 : k = 0 ∨ 0 < k := by omega
    · rfl
    · have hmod : (k + 8) % 9 = k - 1 := by omega
      rw [if_neg (by omega), hmod, State.ringBit, if_neg (by omega)]

/-- RAR turns the ring right by one. -/
theorem exec_rar_ringBit (s : State) :
    ∃ t, exec .rar s = .next t ∧ ∀ k : Nat, k < 9 → t.ringBit k = s.ringBit ((k + 1) % 9) := by
  obtain ⟨t, hexec, h⟩ := exec_rar s
  refine ⟨t, hexec, fun k hk => ?_⟩
  obtain rfl | hk8 : k = 8 ∨ k < 8 := by omega
  · simp [State.ringBit, h.carry]
  · have hmod : (k + 1) % 9 = k + 1 := by omega
    rw [State.ringBit, if_neg (by omega), h.bits k hk8, hmod, State.ringBit]
    simp

/-- `n` RLC turn A left by `n`. -/
theorem execAll_replicate_rlc (n : Nat) (s : State) : ∃ t, execAll (List.replicate n .rlc) s = .next t ∧
    ∀ k : Nat, k < 8 → t.rA.getLsbD k = s.rA.getLsbD ((k + 7 * n) % 8) := by
  induction n generalizing s with
  | zero => exact ⟨s, rfl, fun k hk => by rw [Nat.mul_zero, Nat.add_zero, Nat.mod_eq_of_lt hk]⟩
  | succ n ih =>
    obtain ⟨t, hexec, h⟩ := exec_rlc s
    obtain ⟨u, hrest, hu⟩ := ih t
    refine ⟨u, (execAll_cons _ hexec).trans hrest, fun k hk => ?_⟩
    have hturn : ((k + 7 * n) % 8 + 7) % 8 = (k + 7 * (n + 1)) % 8 := by omega
    rw [hu k hk, h.bits _ (by omega), hturn]

/-- `n` RAL turn the ring left by `n`. -/
theorem execAll_replicate_ral (n : Nat) (s : State) : ∃ t, execAll (List.replicate n .ral) s = .next t ∧
    ∀ k : Nat, k < 9 → t.ringBit k = s.ringBit ((k + 8 * n) % 9) := by
  induction n generalizing s with
  | zero => exact ⟨s, rfl, fun k hk => by rw [Nat.mul_zero, Nat.add_zero, Nat.mod_eq_of_lt hk]⟩
  | succ n ih =>
    obtain ⟨t, hexec, ht⟩ := exec_ral_ringBit s
    obtain ⟨u, hrest, hu⟩ := ih t
    refine ⟨u, (execAll_cons _ hexec).trans hrest, fun k hk => ?_⟩
    have hturn : ((k + 8 * n) % 9 + 8) % 9 = (k + 8 * (n + 1)) % 9 := by omega
    rw [hu k hk, ht _ (by omega), hturn]

theorem execAll_rlc_rrc (s : State) : ∃ t, execAll [.rlc, .rrc] s = .next t ∧ t.rA = s.rA := by
  obtain ⟨t, hleft, ht⟩ := exec_rlc s
  obtain ⟨u, hright, hu⟩ := exec_rrc t
  refine ⟨u, (execAll_cons _ hleft).trans (execAll_cons _ hright), BitVec.eq_of_getLsbD_eq fun k hk => ?_⟩
  have hturn : ((k + 1) % 8 + 7) % 8 = k := by omega
  rw [hu.bits k hk, ht.bits _ (by omega), hturn]

theorem execAll_ral_rar (s : State) : ∃ t, execAll [.ral, .rar] s = .next t ∧ t.rA = s.rA ∧ t.fC = s.fC := by
  obtain ⟨t, hleft, ht⟩ := exec_ral_ringBit s
  obtain ⟨u, hright, hu⟩ := exec_rar_ringBit t
  refine ⟨u, (execAll_cons _ hleft).trans (execAll_cons _ hright), eq_of_ringBit_eq fun k hk => ?_⟩
  have hturn : ((k + 1) % 9 + 8) % 9 = k := by omega
  rw [hu k hk, ht _ (by omega), hturn]

/-- Settles O40: a turn and its opposite cancel, and eight turns of a ring of eight, or nine of a ring of nine, come round. -/
theorem rotatesUndoOneAnother : Obligations.RotatesUndoOneAnother := by
  intro s
  obtain ⟨t, hrlc, ht⟩ := execAll_replicate_rlc 8 s
  obtain ⟨u, hral, hu⟩ := execAll_replicate_ral 9 s
  refine ⟨execAll_rlc_rrc s, execAll_ral_rar s, ⟨t, hrlc, BitVec.eq_of_getLsbD_eq fun k hk => ?_⟩,
    u, hral, eq_of_ringBit_eq fun k hk => ?_⟩
  · have hround : (k + 7 * 8) % 8 = k := by omega
    rw [ht k hk, hround]
  · have hround : (k + 8 * 9) % 9 = k := by omega
    rw [hu k hk, hround]

end Sys2Proof.Machine
end

section
/-!
Program counter and stack control (R180 to R191): jumps, calls, returns and RST write the address stack and nothing else; and
what nested calls and returns leave in the ring.
-/

namespace Sys2Proof.Machine

/-! ## The frame -/

/-- Between `s` and `t` nothing was written but the address stack, with no cycle made. -/
structure WritesStackOnly (s t : State) : Prop where
  regs : SameRegs s t
  flags : SameFlags s t
  mem : SameMem s t
  control : SameControl s t
  cycle : NoCycle s t
  tmpB : t.tmpB = s.tmpB

/-- Between `s` and `t` the instruction put `target` into PC, in `n` states. -/
structure JumpsTo (target : Addr) (n : Nat) (s t : State) : Prop extends WritesStackOnly s t where
  pc : t.pc = target
  sp : t.sp = s.sp
  entries : ∀ k : Fin 8, k ≠ s.sp → t.stk[k] = s.stk[k]
  tmpA : t.tmpA = s.tmpA
  took : Took n s t

/-- Between `s` and `t` the instruction called `target`, in `n` states: the old entry holds the return address. -/
structure Calls (target : Addr) (n : Nat) (s t : State) : Prop extends WritesStackOnly s t where
  sp : t.sp = s.sp + 1
  pc : t.pc = target
  entries : ∀ k : Fin 8, k ≠ s.sp + 1 → t.stk[k] = s.stk[k]
  tmpA : t.tmpA = s.tmpA
  took : Took n s t

/-- Between `s` and `t` the instruction returned, in `n` states: PC is the entry below. -/
structure Returns (n : Nat) (s t : State) : Prop extends WritesStackOnly s t where
  sp : t.sp = s.sp - 1
  stk : t.stk = s.stk
  tmpA : t.tmpA = s.tmpA
  took : Took n s t

/-- Between `s` and `t` the instruction did nothing, in `n` states. -/
structure PassesBy (n : Nat) (s t : State) : Prop extends WritesStackOnly s t where
  stack : SameStack s t
  tmpA : t.tmpA = s.tmpA
  took : Took n s t

theorem State.jump_jumpsTo (s : State) (target : Addr) (n : Nat) :
    JumpsTo target n s ((s.showTarget.setPc target).complete n) where
  regs _ := by simp
  flags _ := by simp
  mem _ := by simp
  control := by simp [sameControl_iff]
  cycle := ⟨by simp, by simp, by simp⟩
  tmpB := by simp
  pc := by simp
  sp := by simp
  entries k hk := s.showTarget.setPc_entry target k hk
  tmpA := by simp
  took := ⟨by simp, rfl, rfl⟩

/-- `Push()` and the write of PC complete a call, after what the bus showed before them (R184, R190). -/
theorem OnTheWay.calls {s u : State} (h : OnTheWay s u) (hcycle : NoCycle s u) (hb : u.tmpB = s.tmpB) (target : Addr)
    (n : Nat) : Calls target n s ((u.call target).complete n) where
  regs r := by simp [h.regs r]
  flags c := by simp [h.flags c]
  mem a := by simpa using h.mem a
  control := by simpa [sameControl_iff] using h.control
  cycle := by
    obtain ⟨hevents, hdraws, hinputs⟩ := hcycle
    exact ⟨by simp [hevents], by simp [hdraws], by simp [hinputs]⟩
  tmpB := by simp [hb]
  sp := by simp [h.stack.1]
  pc := by simp
  entries k hk := by
    obtain ⟨hsp, hstk⟩ := h.stack
    obtain ⟨_, _, hentries⟩ := u.call_spec target
    calc (u.call target).stk[k] = u.stk[k] := hentries k (by rwa [hsp])
      _ = s.stk[k] := by rw [hstk]
  tmpA := by simp [h.tmpA]
  took := ⟨by simp [h.states], rfl, rfl⟩

theorem State.call_calls (s : State) (target : Addr) (n : Nat) :
    Calls target n s ((s.showTarget.call target).complete n) :=
  s.showTarget_onTheWay.calls ⟨by simp, by simp, by simp⟩ (by simp) target n

theorem State.ret_returns (s : State) (n : Nat) : Returns n s ((s.showOpens .one).pop.complete n) where
  regs _ := by simp
  flags _ := by simp
  mem _ := by simp
  control := by simp [sameControl_iff]
  cycle := ⟨by simp, by simp, by simp⟩
  tmpB := by simp
  sp := by simp
  stk := by simp
  tmpA := by simp
  took := ⟨by simp, rfl, rfl⟩

theorem State.complete_passesBy (s : State) (n : Nat) : PassesBy n s (s.complete n) where
  regs _ := by simp
  flags _ := by simp
  mem _ := by simp
  control := by simp [sameControl_iff]
  cycle := ⟨by simp, by simp, by simp⟩
  tmpB := by simp
  stack := ⟨by simp, by simp⟩
  tmpA := by simp
  took := ⟨by simp, rfl, rfl⟩

/-! ## SP as a number, around the ring -/

theorem sp_add_one (p : Fin 8) : (p + 1).val = (p.val + 1) % 8 := by
  revert p
  decide

theorem sp_sub_one (p : Fin 8) : (p - 1).val = (p.val + 7) % 8 := by
  revert p
  decide

theorem sp_ne_add_one (p : Fin 8) : p ≠ p + 1 := by
  revert p
  decide

/-- The old entry of a call holds the return address (R184). -/
theorem Calls.returnAddress {target : Addr} {n : Nat} {s t : State} (h : Calls target n s t) : t.stk[s.sp] = s.pc :=
  h.entries s.sp (sp_ne_add_one s.sp)

/-- A call moves SP on by one, in numbers. -/
theorem Calls.sp_val {target : Addr} {n : Nat} {s t : State} (h : Calls target n s t) :
    t.sp.val = (s.sp.val + 1) % 8 := by
  rw [h.sp, sp_add_one]

/-- A call writes no entry but the one that is PC after it. -/
theorem Calls.entries_ne_sp {target : Addr} {n : Nat} {s t : State} (h : Calls target n s t) :
    ∀ k : Fin 8, k ≠ t.sp → t.stk[k] = s.stk[k] :=
  h.sp ▸ h.entries

/-- A return moves SP back by one, in numbers. -/
theorem Returns.sp_val {n : Nat} {s t : State} (h : Returns n s t) : t.sp.val = (s.sp.val + 7) % 8 := by
  rw [h.sp, sp_sub_one]

/-- PC after a return is the entry below (R31). -/
theorem Returns.pc {n : Nat} {s t : State} (h : Returns n s t) : t.pc = s.stk[s.sp - 1] := by
  simp [State.pc, h.sp, h.stk]

/-- PC is a part of the address stack (R29). -/
theorem SameStack.pc {s t : State} (h : SameStack s t) : t.pc = s.pc := by
  obtain ⟨hsp, hstk⟩ := h
  simp [State.pc, hsp, hstk]

/-! ## Jumps -/

/-- Settles O44: what a jump writes, and all it leaves. -/
theorem jumpGoesToTheTarget : Obligations.JumpGoesToTheTarget := by
  intro target s
  have h := s.jump_jumpsTo target 11
  exact ⟨_, rfl, h.pc, h.sp, h.entries, h.regs, h.flags, h.mem, h.control, h.cycle, h.tmpA, h.tmpB, h.took⟩

/-- JFc and JTc in one: the value `w` of the flip-flop at which the instruction acts. -/
theorem exec_conditional_jump {iw : Instr × Bool} {c : Cond} {target : Addr}
    (h : iw ∈ [(Instr.jfc c target, false), (.jtc c target, true)]) (s : State) :
    exec iw.1 s = .next (if s.cond c = iw.2 then (s.showTarget.setPc target).complete 11 else s.complete 9) := by
  simp only [List.mem_cons, List.not_mem_nil, or_false] at h
  obtain rfl | rfl := h <;> rfl

theorem exec_conditional_call {iw : Instr × Bool} {c : Cond} {target : Addr}
    (h : iw ∈ [(Instr.cfc c target, false), (.ctc c target, true)]) (s : State) :
    exec iw.1 s = .next (if s.cond c = iw.2 then (s.showTarget.call target).complete 11 else s.complete 9) := by
  simp only [List.mem_cons, List.not_mem_nil, or_false] at h
  obtain rfl | rfl := h <;> rfl

theorem exec_conditional_return {iw : Instr × Bool} {c : Cond} (h : iw ∈ [(Instr.rfc c, false), (.rtc c, true)])
    (s : State) :
    exec iw.1 s = .next (if s.cond c = iw.2 then (s.showOpens .one).pop.complete 5 else s.complete 3) := by
  simp only [List.mem_cons, List.not_mem_nil, or_false] at h
  obtain rfl | rfl := h <;> rfl

/-- Settles O45: taken, a jump as JMP; not taken, nothing. -/
theorem conditionalJumps : Obligations.ConditionalJumps := by
  intro c target s iw hiw
  refine ⟨_, exec_conditional_jump hiw s, ?_⟩
  by_cases htaken : s.cond c = iw.2
  · have h := s.jump_jumpsTo target 11
    rw [if_pos htaken, if_pos htaken]
    exact ⟨⟨h.pc, h.took⟩, h.sp, h.entries, h.regs, h.flags, h.mem, h.control, h.cycle, h.tmpA, h.tmpB⟩
  · have h := s.complete_passesBy 9
    obtain ⟨hsp, hstk⟩ := h.stack
    rw [if_neg htaken, if_neg htaken]
    exact ⟨⟨SameStack.pc h.stack, h.took⟩, hsp, fun k _ => by rw [hstk], h.regs, h.flags, h.mem, h.control, h.cycle, h.tmpA, h.tmpB⟩

/-! ## Calls -/

/-- Settles O46: what a call writes, and all it leaves. -/
theorem callKeepsTheReturnAddress : Obligations.CallKeepsTheReturnAddress := by
  intro target s
  have h := s.call_calls target 11
  exact ⟨_, rfl, h.sp_val, h.pc, h.returnAddress, h.entries_ne_sp, h.regs, h.flags, h.mem, h.control, h.cycle, h.tmpA, h.tmpB,
    h.took⟩

/-- Settles O47: taken, a call as CAL; not taken, nothing. -/
theorem conditionalCalls : Obligations.ConditionalCalls := by
  intro c target s iw hiw
  refine ⟨_, exec_conditional_call hiw s, ?_⟩
  by_cases htaken : s.cond c = iw.2
  · have h := s.call_calls target 11
    rw [if_pos htaken, if_pos htaken]
    exact ⟨⟨h.sp_val, h.pc, h.returnAddress, h.entries_ne_sp, h.took⟩, h.regs, h.flags, h.mem, h.control, h.cycle, h.tmpA,
      h.tmpB⟩
  · have h := s.complete_passesBy 9
    rw [if_neg htaken, if_neg htaken]
    exact ⟨⟨h.stack, h.took⟩, h.regs, h.flags, h.mem, h.control, h.cycle, h.tmpA, h.tmpB⟩

/-! ## Returns -/

/-- Settles O48: what a return moves, and all it leaves. -/
theorem returnTakesTheEntryBelow : Obligations.ReturnTakesTheEntryBelow := by
  intro s
  have h := s.ret_returns 5
  exact ⟨_, rfl, h.sp_val, h.stk, h.pc, h.regs, h.flags, h.mem, h.control, h.cycle, h.tmpA, h.tmpB, h.took⟩

/-- Settles O49: taken, a return as RET; not taken, nothing. -/
theorem conditionalReturns : Obligations.ConditionalReturns := by
  intro c s iw hiw
  refine ⟨_, exec_conditional_return hiw s, ?_⟩
  by_cases htaken : s.cond c = iw.2
  · have h := s.ret_returns 5
    rw [if_pos htaken, if_pos htaken]
    exact ⟨⟨h.sp_val, h.pc, h.took⟩, h.stk, h.regs, h.flags, h.mem, h.control, h.cycle, h.tmpA, h.tmpB⟩
  · have h := s.complete_passesBy 3
    obtain ⟨hsp, hstk⟩ := h.stack
    rw [if_neg htaken, if_neg htaken]
    exact ⟨⟨hsp, SameStack.pc h.stack, h.took⟩, hstk, h.regs, h.flags, h.mem, h.control, h.cycle, h.tmpA, h.tmpB⟩

/-! ## RST -/

theorem restartAddr_toNat (aaa : BitVec 3) : (restartAddr aaa).toNat = 8 * aaa.toNat := by
  revert aaa
  decide

/-- RST is a call from the state with zero in temporary a (R190). -/
theorem exec_rst_calls (aaa : BitVec 3) (s : State) :
    ∃ t, exec (.rst aaa) s = .next t ∧ Calls (restartAddr aaa) 5 (s.setTmpA 0) t := by
  have hway : OnTheWay (s.setTmpA 0) (((s.setTmpA 0).showBus .one .T4 0).showBits .one .T5 s.tmpB 0x38) :=
    ((s.setTmpA 0).showBus_onTheWay .one .T4 0).trans (State.showBus_onTheWay _ .one .T5 _)
  exact ⟨_, rfl, hway.calls ⟨by simp, by simp, by simp⟩ (by simp) (restartAddr aaa) 5⟩

/-- Settles O50: RST is a call of its restart address. -/
theorem restartCallsItsAddress : Obligations.RestartCallsItsAddress := by
  intro aaa s
  obtain ⟨t, hexec, h⟩ := exec_rst_calls aaa s
  exact ⟨t, hexec, h.sp_val, by rw [h.pc, restartAddr_toNat], h.returnAddress, h.entries_ne_sp,
    fun r => (h.regs r).trans (s.setTmpA_reg 0 r), fun c => (h.flags c).trans (s.setTmpA_cond 0 c), h.mem, h.control,
    h.cycle, h.tmpA, h.tmpB, h.took⟩

/-! ## Nested calls -/

theorem exec_cal_calls (target : Addr) (s : State) : ∃ t, exec (.cal target) s = .next t ∧ Calls target 11 s t :=
  ⟨_, rfl, s.call_calls target 11⟩

theorem exec_ret_returns (s : State) : ∃ t, exec .ret s = .next t ∧ Returns 5 s t :=
  ⟨_, rfl, s.ret_returns 5⟩

theorem execAll_append {is : List Instr} {s t : State} (js : List Instr) (h : execAll is s = .next t) :
    execAll (is ++ js) s = execAll js t := by
  induction is generalizing s with
  | nil =>
    cases h
    rfl
  | cons i is ih =>
    cases hexec : exec i s with
    | next u =>
      rw [execAll_cons _ hexec] at h
      rw [List.cons_append, execAll_cons _ hexec, ih h]
    | fault r => nomatch r
    | refused r => simp [execAll, hexec] at h

/-- The calls of a list of targets, each from the one before, and then as many returns (R191). -/
def nestedCalls (targets : List Addr) : List Instr :=
  targets.map Instr.cal ++ List.replicate targets.length .ret

/-- The first call and the last return enclose the others. -/
theorem nestedCalls_cons (a : Addr) (rest : List Addr) :
    nestedCalls (a :: rest) = .cal a :: (nestedCalls rest ++ [.ret]) := by
  simp [nestedCalls, List.replicate_succ']

/-- Between `s` and `t` all of `n` nested calls have returned: the entries that are not among the `n` above SP are as they
were. -/
structure NestReturns (n : Nat) (s t : State) : Prop where
  sp : t.sp = s.sp
  entries : ∀ k : Fin 8, k = s.sp ∨ n < (k - s.sp).val → t.stk[k] = s.stk[k]
  regs : SameRegs s t
  flags : SameFlags s t
  mem : SameMem s t

/-- Seen from the next SP an entry is one place nearer, and the old SP is the farthest. -/
theorem ring_distance (p k : Fin 8) :
    (p - (p + 1)).val = 7 ∧ (k = p ∨ (k - p).val = (k - (p + 1)).val + 1) := by
  revert p k
  decide

/-- An entry out of reach of `n + 1` calls is not the first one they write, and is out of reach of the `n` others. -/
theorem ring_free_succ (p k : Fin 8) (n : Nat) (hn : n + 1 ≤ 7) (h : k = p ∨ n + 1 < (k - p).val) :
    k ≠ p + 1 ∧ n < (k - (p + 1)).val := by
  have hfree : n < (k - (p + 1)).val := by
    obtain ⟨hfar, rfl | hnear⟩ := ring_distance p k
    · omega
    · obtain rfl | h := h <;> omega
  refine ⟨fun hk => ?_, hfree⟩
  rw [hk, sub_self] at hfree
  exact absurd hfree (Nat.not_lt_zero n)

/-- One call around returned ones, and its return. -/
theorem NestReturns.enclose {n : Nat} {target : Addr} {s t u w : State} (hn : n + 1 ≤ 7) (hcall : Calls target 11 s t)
    (hin : NestReturns n t u) (hret : Returns 5 u w) : NestReturns (n + 1) s w where
  sp := by rw [hret.sp, hin.sp, hcall.sp, add_sub_cancel_right]
  entries k hk := by
    obtain ⟨hne, hfree⟩ := ring_free_succ s.sp k n hn hk
    rw [hret.stk, hin.entries k (.inr (by rwa [hcall.sp])), hcall.entries k hne]
  regs r := (hret.regs r).trans ((hin.regs r).trans (hcall.regs r))
  flags c := (hret.flags c).trans ((hin.flags c).trans (hcall.flags c))
  mem a := (hret.mem a).trans ((hin.mem a).trans (hcall.mem a))

/-- Up to seven nested calls return in order. -/
theorem execAll_nestedCalls (s : State) (targets : List Addr) (hlen : targets.length ≤ 7) :
    ∃ t, execAll (nestedCalls targets) s = .next t ∧ NestReturns targets.length s t := by
  induction targets generalizing s with
  | nil => exact ⟨s, rfl, rfl, fun _ _ => rfl, fun _ => rfl, fun _ => rfl, fun _ => rfl⟩
  | cons a rest ih =>
    rw [List.length_cons] at hlen
    obtain ⟨t, hcal, hcall⟩ := exec_cal_calls a s
    obtain ⟨u, hrest, hin⟩ := ih t (by omega)
    obtain ⟨w, hret, hreturn⟩ := exec_ret_returns u
    refine ⟨w, ?_, hin.enclose hlen hcall hreturn⟩
    rw [nestedCalls_cons, execAll_cons _ hcal, execAll_append _ hrest, execAll_cons _ hret]
    rfl

/-- Settles O52: by induction on the targets, each call enclosing the later ones. -/
theorem nestedCallsReturnInOrder : Obligations.NestedCallsReturnInOrder := by
  intro s targets hlen
  obtain ⟨t, hexec, h⟩ := execAll_nestedCalls s targets hlen
  refine ⟨t, hexec, h.sp, ?_, h.regs, h.flags, h.mem⟩
  calc t.pc = t.stk[s.sp] := by simp [State.pc, h.sp]
    _ = s.pc := h.entries s.sp (.inl rfl)

/-- However many calls are nested, the entry that the last one reaches holds its target after all have returned. -/
theorem execAll_nestedCalls_deepest (s : State) (targets : List Addr) (last : Addr) :
    ∃ t, execAll (nestedCalls (targets ++ [last])) s = .next t ∧ t.sp = s.sp ∧
      ∀ k : Fin 8, k.val = (s.sp.val + targets.length + 1) % 8 → t.stk[k] = last := by
  induction targets generalizing s with
  | nil =>
    obtain ⟨t, hcal, hcall⟩ := exec_cal_calls last s
    obtain ⟨w, hret, hreturn⟩ := exec_ret_returns t
    refine ⟨w, (execAll_cons _ hcal).trans (execAll_cons _ hret), ?_, fun k hk => ?_⟩
    · rw [hreturn.sp, hcall.sp, add_sub_cancel_right]
    · have hkt : k = t.sp := Fin.ext (by rw [hk, hcall.sp_val]; rfl)
      rw [hreturn.stk, hkt]
      exact hcall.pc
  | cons a rest ih =>
    obtain ⟨t, hcal, hcall⟩ := exec_cal_calls a s
    obtain ⟨u, hrest, hsp, hdeepest⟩ := ih t
    obtain ⟨w, hret, hreturn⟩ := exec_ret_returns u
    refine ⟨w, ?_, ?_, fun k hk => ?_⟩
    · rw [List.cons_append, nestedCalls_cons, execAll_cons _ hcal, execAll_append _ hrest, execAll_cons _ hret]
      rfl
    · rw [hreturn.sp, hsp, hcall.sp, add_sub_cancel_right]
    · rw [hreturn.stk]
      refine hdeepest k ?_
      rw [hk, hcall.sp_val, List.length_cons]
      omega

/-- Settles O53: eight places around the ring the last call writes the entry the first one kept. -/
theorem eighthCallLosesTheOldestReturn : Obligations.EighthCallLosesTheOldestReturn := by
  intro s targets last hlen
  obtain ⟨t, hexec, hsp, hdeepest⟩ := execAll_nestedCalls_deepest s targets last
  have hlen8 : (targets ++ [last]).length = 8 := by rw [List.length_append, hlen]; rfl
  rw [nestedCalls, hlen8] at hexec
  have hround : s.sp.val = (s.sp.val + targets.length + 1) % 8 := by
    have := s.sp.isLt
    omega
  refine ⟨t, hexec, hsp, ?_⟩
  calc t.pc = t.stk[s.sp] := by simp [State.pc, hsp]
    _ = last := hdeepest s.sp hround

end Sys2Proof.Machine
end

section
/-!
Input, output, HLT and the unspecified bytes (R210, R211, R220, R93), and memory as the instructions see it (R52 to R54, R66,
R69).
-/

namespace Sys2Proof.Machine

/-! ## INP and OUT -/

/-- INP before A is written: the byte supplied stands in temporary b, and the bus showed the flags (R210). -/
theorem State.ioIn_bringsToB (s : State) (port : Port) (v known : Byte) :
    BringsToB (s.ioIn port).1 s
      (((s.ioIn port).2.setTmpB (s.ioIn port).1).showBits .two .T4 v known) :=
  (((s.ioIn_onTheWay port).trans (State.setTmpB_onTheWay _ _)).trans (State.showBus_onTheWay _ .two .T4 _)).bringsToB
    (by simp)

/-- INP is a load of A with the byte the outside supplies. -/
theorem exec_inp_loads (mmm : BitVec 3) (s : State) : ∃ t, exec (.inp mmm) s = .next t ∧
    LoadsThroughB .A (s.ioIn (portOf 0 mmm)).1 8 s t ∧ NoCycle (s.ioIn (portOf 0 mmm)).2 t ∧ Took 8 s t := by
  have hload := (s.ioIn_bringsToB (portOf 0 mmm) (0#4 ++ s.flagNibble) 0x0F).loads .two .A 8
  exact ⟨_, exec_inp mmm s, hload, ⟨by simp, by simp, by simp⟩, hload.states, rfl, rfl⟩

theorem flagNibble_bits (s : State) : s.flagNibble.getLsbD 0 = s.fS ∧ s.flagNibble.getLsbD 1 = s.fZ ∧
    s.flagNibble.getLsbD 2 = s.fP ∧ s.flagNibble.getLsbD 3 = s.fC := by
  have bits : ∀ c p z g : Bool,
      let n := BitVec.ofBool c ++ BitVec.ofBool p ++ BitVec.ofBool z ++ BitVec.ofBool g
      n.getLsbD 0 = g ∧ n.getLsbD 1 = z ∧ n.getLsbD 2 = p ∧ n.getLsbD 3 = c := by decide
  exact bits s.fC s.fP s.fZ s.fS

/-- Settles O54: the I/O cycle says what the outside sees and supplies, and the load brings the byte to A. -/
theorem inputTakesAByteIntoA : Obligations.InputTakesAByteIntoA := by
  intro mmm s
  obtain ⟨t, hexec, hload, ⟨hevents, hdraws, hinputs⟩, htook⟩ := exec_inp_loads mmm s
  obtain ⟨hevent, hbyte⟩ := s.ioIn_spec (portOf 0 mmm)
  obtain ⟨hS, hZ, hP, hC⟩ := flagNibble_bits s
  have hport : (portOf 0 mmm).toNat = mmm.toNat := by rw [portOf_toNat]; simp
  have hin : (portOf 0 mmm).toNat < Config.nInPorts := (portOf_input_iff 0 mmm).1.mpr rfl
  refine ⟨_, _, _, t, hexec, hload.dest, hevents.trans hevent, hport, hin, hS, hZ, hP, hC, ?_, hload.others, hload.flags,
    hload.stack, hload.mem, hload.control, hload.tmpA, hload.tmpB, htook⟩
  rw [hinputs, hdraws]
  obtain ⟨rest, hlisted, hrest, hkept⟩ | ⟨hnone, hfree, hnone', hdrawn⟩ := hbyte
  · exact .inl ⟨by rw [hrest]; exact hlisted, hkept⟩
  · exact .inr ⟨hnone, hnone', hfree, hdrawn⟩

/-- Settles O55: one event, and nothing else but the count of states. -/
theorem outputSendsA : Obligations.OutputSendsA := by
  intro rr mmm s
  obtain ⟨hport, hrange⟩ := portOf_input_iff rr mmm
  refine ⟨portOf rr mmm, _, rfl, rfl, portOf_toNat rr mmm, fun hrr => ⟨Nat.le_of_not_lt (mt hport.mp hrr), hrange⟩,
    fun r => ?_, fun c => ?_, ⟨rfl, rfl⟩, fun _ => rfl, ⟨rfl, rfl, rfl, rfl, rfl⟩, rfl, rfl, rfl, rfl, rfl, rfl, rfl⟩
  · simp
  · simp

/-! ## HLT and the unspecified bytes -/

/-- Settles O56: both encodings halt the processor, and that writes STOPPED and the state counter alone. -/
theorem haltStops : Obligations.HaltStops := by
  intro s i hi
  have hhlt : i.isHlt = true := i.isHlt_iff.mpr (by simpa using hi)
  exact ⟨s.halt, exec_of_isHlt s hhlt, rfl, rfl, rfl, rfl, fun r => by simp, fun c => by simp, ⟨rfl, rfl⟩, fun _ => rfl,
    ⟨rfl, rfl, rfl⟩, rfl, rfl, rfl, rfl, rfl, rfl⟩

/-- Settles O57, byte by byte. -/
theorem unspecifiedBytesAreRefused : Obligations.UnspecifiedBytesAreRefused := by
  intro b2 b3 s op hop
  simp only [List.mem_cons, List.not_mem_nil, or_false] at hop
  obtain rfl | rfl | rfl | rfl | rfl | rfl := hop
  all_goals rfl

/-! ## Memory -/

/-- What a read answers depends on the memory map, the byte held, and the count of draws. -/
theorem State.memRead_fst_congr {s t : State} (k : ReadKind) {a : Addr} (hmem : s.HasMemory a) (hmap : t.memMap = s.memMap)
    (hbyte : t.mem.read a.toNat = s.mem.read a.toNat) : (t.memRead k a).1 = (s.memRead k a).1 := by
  rw [t.memRead_memory k a ((s.hasMemory_congr t a hmap).mpr hmem), s.memRead_memory k a hmem]
  exact hbyte

/-- Settles O58: a read where there is memory answers the byte held, and the write says which bytes those are. -/
theorem memoryReadsWhatWasWritten : Obligations.MemoryReadsWhatWasWritten := by
  intro s a b v k hwf
  have hwrite := s.memWrite_spec a v hwf
  have hmap : (s.memWrite a v).memMap = s.memMap := by simp
  refine ⟨fun hram => hwrite.memRead hmap hram k, fun hrom => ?_, fun hmem hb => ?_⟩
  · obtain ⟨_, _, _, _, hbyte⟩ := hwrite
    refine State.memRead_fst_congr k (.inr hrom) hmap ?_
    rw [hbyte, hrom]
    rfl
  · exact State.memRead_fst_congr k hmem hmap (s.memWrite_other a v b.toNat fun h => hb (BitVec.eq_of_toNat_eq h))

/-- Settles O59: the address of M is put together as an address of format F3 is. -/
theorem addressOfM : Obligations.AddressOfM :=
  fun s => assembleAddr_toNat s.rL s.rH

/-- The first byte of a fetch is the byte read at PC. -/
theorem State.fetchOpcode_fst (s : State) : s.fetchOpcode.1 = (s.memRead .pci s.pc).1 := rfl

/-- Settles O60: the fetch reads at PC, where the store wrote. -/
theorem storedByteIsFetchedNext : Obligations.StoredByteIsFetchedNext := by
  intro r s hwf hram hpc
  have hread := (exec_lMr_writesByte r s hwf).memRead (by simp) hram .pci
  have hfetch : (((s.regToB r).memWrite s.mAddr (s.reg r)).complete 7).fetchOpcode.1 = s.reg r := by
    rw [State.fetchOpcode_fst]
    simpa [← hpc] using hread
  exact ⟨_, exec_lMr r s, hfetch, hfetch⟩

end Sys2Proof.Machine
end

section
/-!
The rules over all instructions (R24, R29 to R33, R45, R53): an instruction is of one of a few kinds, each kind has its
effect, and the frames are read off the effects.
-/

namespace Sys2Proof

namespace Machine

/-! ## The kinds -/

/-- What an instruction writes: the register `d` through temporary b, memory, the register `d` with its flags, what operation
`p` writes, A and the carry, the address stack, or none of these; or it has no meaning. -/
inductive Kind where
  | load (d : Reg)
  | store
  | count (d : Reg)
  | alu (p : AluOp)
  | rotate
  | control
  | still
  | unspecified

end Machine

/-- The kind of an instruction, by the sections of spec/ that give it a meaning. -/
def Instr.kind : Instr → Machine.Kind
  | .lr1r2 d _ | .lrM d | .lrI d _ => .load d
  | .inp _ => .load .A
  | .lMr _ | .lMI _ => .store
  | .inr d | .dcr d => .count d
  | .adr _ | .adm | .adi _ => .alu .ad
  | .acr _ | .acm | .aci _ => .alu .ac
  | .sur _ | .sum | .sui _ => .alu .su
  | .sbr _ | .sbm | .sbi _ => .alu .sb
  | .ndr _ | .ndm | .ndi _ => .alu .nd
  | .xrr _ | .xrm | .xri _ => .alu .xr
  | .orr _ | .orm | .ori _ => .alu .or
  | .cpr _ | .cpm | .cpi _ => .alu .cp
  | .rlc | .rrc | .ral | .rar => .rotate
  | .jmp _ | .jfc _ _ | .jtc _ _ | .cal _ | .cfc _ _ | .ctc _ _ | .ret | .rfc _ | .rtc _ | .rst _ => .control
  | .out _ _ | .hlt | .hltFF => .still
  | .unspecRotate _ | .unspec38 | .unspec39 => .unspecified

namespace Machine

/-- Between `s` and `t` no register, flip-flop or stack entry was written. -/
structure StaysStill (s t : State) : Prop where
  regs : SameRegs s t
  flags : SameFlags s t
  stack : SameStack s t

/-- What an instruction of a kind makes of `s`. -/
def Kind.Effect : Kind → State → State → Prop
  | .load d, s, t => ∃ v n, LoadsThroughB d v n s t
  | .store, s, t => ∃ v n, StoresThroughB v n s t
  | .count d, s, t => ∃ v, CountsTo d v s t
  | .alu p, s, t => ∃ y n, DoesAlu p y n s t
  | .rotate, s, t => ∃ f c, RotatesTo f c s t
  | .control, s, t => WritesStackOnly s t
  | .still, s, t => StaysStill s t
  | .unspecified, _, _ => False

theorem rst_writesStackOnly {aaa : BitVec 3} {s t : State} (h : exec (.rst aaa) s = .next t) : WritesStackOnly s t := by
  obtain ⟨u, hexec, hu⟩ := exec_rst_calls aaa s
  cases hexec.symm.trans h
  exact ⟨fun r => (hu.regs r).trans (s.setTmpA_reg 0 r), fun c => (hu.flags c).trans (s.setTmpA_cond 0 c), hu.mem,
    hu.control, hu.cycle, hu.tmpB⟩

/-- Whatever an instruction with a next state makes of `s`, it is the effect of its kind. -/
theorem exec_effect {i : Instr} {s t : State} (h : exec i s = .next t) : i.kind.Effect s t := by
  cases i with
  | lr1r2 d r =>
    cases h
    exact ⟨_, _, (s.regToB_bringsToB r).loads .one d 5⟩
  | lrM d =>
    rw [exec_lrM] at h
    cases h
    exact ⟨_, _, s.memToB_bringsToB.loads .two d 8⟩
  | lrI d v =>
    cases h
    exact ⟨_, _, ((s.setTmpB_bringsToB v).showOpen .two .T4).loads .two d 8⟩
  | inp mmm =>
    obtain ⟨u, hexec, hu, _⟩ := exec_inp_loads mmm s
    cases hexec.symm.trans h
    exact ⟨_, _, hu⟩
  | lMr r =>
    cases h
    exact ⟨_, _, (s.regToB_bringsToB r).stores 7⟩
  | lMI v =>
    cases h
    exact ⟨_, _, (s.setTmpB_bringsToB v).stores 9⟩
  | inr d | dcr d =>
    cases h
    exact ⟨_, s.countTo_countsTo d _ _⟩
  | adr r | acr r | sur r | sbr r | ndr r | xrr r | orr r | cpr r =>
    cases h
    exact ⟨_, _, s.aluReg_doesAlu _ r⟩
  | adm | acm | sum | sbm | ndm | xrm | orm | cpm =>
    cases h
    exact ⟨_, _, s.aluMem_doesAlu _⟩
  | adi v | aci v | sui v | sbi v | ndi v | xri v | ori v | cpi v =>
    cases h
    exact ⟨_, _, s.aluImm_doesAlu _ v⟩
  | rlc | rrc | ral | rar =>
    cases h
    exact ⟨_, _, s.rotateTo_rotatesTo _ _ fun _ _ => rfl⟩
  | jmp a =>
    cases h
    exact (s.jump_jumpsTo a 11).toWritesStackOnly
  | jfc _ a | jtc _ a =>
    cases h
    exact iteInduction (motive := WritesStackOnly s) (fun _ => (s.jump_jumpsTo a 11).toWritesStackOnly)
      (fun _ => (s.complete_passesBy 9).toWritesStackOnly)
  | cal a =>
    cases h
    exact (s.call_calls a 11).toWritesStackOnly
  | cfc _ a | ctc _ a =>
    cases h
    exact iteInduction (motive := WritesStackOnly s) (fun _ => (s.call_calls a 11).toWritesStackOnly)
      (fun _ => (s.complete_passesBy 9).toWritesStackOnly)
  | ret =>
    cases h
    exact (s.ret_returns 5).toWritesStackOnly
  | rfc _ | rtc _ =>
    cases h
    exact iteInduction (motive := WritesStackOnly s) (fun _ => (s.ret_returns 5).toWritesStackOnly)
      (fun _ => (s.complete_passesBy 3).toWritesStackOnly)
  | rst aaa => exact rst_writesStackOnly h
  | out _ _ | hlt | hltFF =>
    cases h
    exact ⟨fun r => by simp, fun c => by simp, ⟨rfl, rfl⟩⟩
  | unspecRotate _ | unspec38 | unspec39 => cases h

/-! ## Registers -/

/-- The register a kind writes. -/
def Kind.dest : Kind → Option Reg
  | .load d | .count d => some d
  | .alu .cp => none
  | .alu _ | .rotate => some .A
  | _ => none

/-- A compare writes no register. -/
theorem AluEffect.sameRegs_of_compare {y : Byte} {s t : State} (h : AluEffect .cp y s t) : SameRegs s t := by
  obtain ⟨hA, _⟩ := h.compare
  obtain ⟨_, _, _, _, hothers⟩ := h
  intro r
  by_cases hr : r = .A
  · rw [hr]
    exact hA
  · exact hothers r hr

/-- Every register but the destination is left alone (R24). -/
theorem Kind.Effect.reg_of_ne {k : Kind} {s t : State} (h : k.Effect s t) (r : Reg) (hr : k.dest ≠ some r) :
    t.reg r = s.reg r := by
  have hne {d : Reg} (hd : some d ≠ some r) : r ≠ d := fun e => hd (congrArg some e.symm)
  cases k with
  | load d =>
    obtain ⟨_, _, hload⟩ := h
    exact hload.others r (hne hr)
  | store =>
    obtain ⟨_, _, hstore⟩ := h
    exact hstore.regs r
  | count d =>
    obtain ⟨_, hcount⟩ := h
    exact hcount.others r (hne hr)
  | alu p =>
    obtain ⟨_, _, halu⟩ := h
    obtain ⟨_, _, _, _, hothers⟩ := halu.effect
    cases p with
    | cp => exact halu.effect.sameRegs_of_compare r
    | ad | ac | su | sb | nd | xr | or => exact hothers r (hne hr)
  | rotate =>
    obtain ⟨_, _, hrotate⟩ := h
    exact hrotate.others r (hne hr)
  | control | still => exact h.regs r
  | unspecified => exact h.elim

/-- Settles O25: the destination is that of the instruction's kind. -/
theorem registersKeptButTheDestination : Obligations.RegistersKeptButTheDestination := by
  intro i s t h
  have hkept (r : Reg) (hr : i.kind.dest ≠ some r) : t.reg r = s.reg r := (exec_effect h).reg_of_ne r hr
  have hne {d r : Reg} (hr : r ≠ d) : some d ≠ some r := fun e => hr (Option.some.inj e).symm
  cases i with
  | lr1r2 d _ | lrM d | lrI d _ | inr d | dcr d => exact fun r hr => hkept r (hne hr)
  | adr _ | adm | adi _ | acr _ | acm | aci _ | sur _ | sum | sui _ | sbr _ | sbm | sbi _ | ndr _ | ndm | ndi _ | xrr _
  | xrm | xri _ | orr _ | orm | ori _ | rlc | rrc | ral | rar | inp _ => exact fun r hr => hkept r (hne hr)
  | _ => exact fun r => hkept r nofun

/-! ## Flip-flops -/

/-- The kinds that write flip-flops. -/
def Kind.writesFlags : Kind → Bool
  | .count _ | .alu _ | .rotate => true
  | _ => false

/-- An instruction of any other kind leaves the four flip-flops alone (R33). -/
theorem Kind.Effect.sameFlags {k : Kind} {s t : State} (h : k.Effect s t) (hk : k.writesFlags = false) : SameFlags s t := by
  cases k with
  | load _ =>
    obtain ⟨_, _, hload⟩ := h
    exact hload.flags
  | store =>
    obtain ⟨_, _, hstore⟩ := h
    exact hstore.flags
  | control | still => exact h.flags
  | count _ | alu _ | rotate => cases hk
  | unspecified => exact h.elim

/-- A logical operation leaves the carry 0 (R33, D6). -/
theorem AluEffect.carry_of_logic {p : AluOp} {y : Byte} {s t : State} (h : AluEffect p y s t)
    (hp : p = .nd ∨ p = .xr ∨ p = .or) : t.fC = false := by
  obtain ⟨_, hgives, _⟩ := h
  obtain rfl | rfl | rfl := hp
  all_goals exact hgives.2

/-- Settles O24: what the kinds that write flip-flops leave of them, and the others. -/
theorem flagsKeptByOtherInstructions : Obligations.FlagsKeptByOtherInstructions := by
  intro i s t h
  have heffect := exec_effect h
  cases i with
  | inr _ | dcr _ =>
    obtain ⟨_, hcount⟩ := heffect
    exact hcount.carry
  | rlc | rrc | ral | rar =>
    obtain ⟨_, _, hrotate⟩ := heffect
    exact ⟨hrotate.zero, hrotate.sign, hrotate.parity⟩
  | adr _ | adm | adi _ | acr _ | acm | aci _ | sur _ | sum | sui _ | sbr _ | sbm | sbi _ | cpr _ | cpm | cpi _ => trivial
  | ndr _ | ndm | ndi _ | xrr _ | xrm | xri _ | orr _ | orm | ori _ =>
    obtain ⟨_, _, halu⟩ := heffect
    exact halu.effect.carry_of_logic (by decide)
  | _ => exact heffect.sameFlags rfl

/-! ## The address stack -/

/-- The kinds but `control` leave the whole address stack alone (R26, R29). -/
theorem Kind.Effect.sameStack {k : Kind} {s t : State} (h : k.Effect s t) (hk : k ≠ .control) : SameStack s t := by
  cases k with
  | load _ =>
    obtain ⟨_, _, hload⟩ := h
    exact hload.stack
  | store =>
    obtain ⟨_, _, hstore⟩ := h
    exact hstore.stack
  | count _ =>
    obtain ⟨_, hcount⟩ := h
    exact hcount.stack
  | alu _ =>
    obtain ⟨_, _, halu⟩ := h
    exact halu.stack
  | rotate =>
    obtain ⟨_, _, hrotate⟩ := h
    exact hrotate.stack
  | still => exact h.stack
  | control => exact absurd rfl hk
  | unspecified => exact h.elim

/-- No entry was written but the one that is PC after it. -/
abbrev WritesPcEntry (s t : State) : Prop := ∀ k : Fin 8, k ≠ t.sp → t.stk[k] = s.stk[k]

theorem JumpsTo.writesPcEntry {a : Addr} {n : Nat} {s t : State} (h : JumpsTo a n s t) : WritesPcEntry s t := by
  intro k hk
  rw [h.sp] at hk
  exact h.entries k hk

theorem writesPcEntry_of_stk_eq {s t : State} (h : t.stk = s.stk) : WritesPcEntry s t :=
  fun k _ => by rw [h]

/-- SP went one of the ways `f` allows, and no entry was written but the one that is PC after it. -/
abbrev MovesStack (f : Fin 8 → Fin 8 → Prop) (s t : State) : Prop := f s.sp t.sp ∧ WritesPcEntry s t

theorem PassesBy.movesStack {f : Fin 8 → Fin 8 → Prop} {n : Nat} {s t : State} (h : PassesBy n s t)
    (hf : f s.sp s.sp) : MovesStack f s t := by
  obtain ⟨hsp, hstk⟩ := h.stack
  exact ⟨by rwa [hsp], writesPcEntry_of_stk_eq hstk⟩

/-- Settles O26: what each of the control instructions does to SP, taken and not taken; the other kinds leave the stack
whole. -/
theorem stackMovesOneEntryAtMost : Obligations.StackMovesOneEntryAtMost := by
  intro i s t h
  cases i with
  | jmp a =>
    cases h
    exact ⟨(s.jump_jumpsTo a 11).sp, (s.jump_jumpsTo a 11).writesPcEntry⟩
  | jfc _ a | jtc _ a =>
    cases h
    exact iteInduction (motive := MovesStack (fun p q => q = p) s)
      (fun _ => ⟨(s.jump_jumpsTo a 11).sp, (s.jump_jumpsTo a 11).writesPcEntry⟩)
      (fun _ => (s.complete_passesBy 9).movesStack rfl)
  | cal a =>
    cases h
    exact ⟨(s.call_calls a 11).sp, (s.call_calls a 11).entries_ne_sp⟩
  | cfc _ a | ctc _ a =>
    cases h
    exact iteInduction (motive := MovesStack (fun p q => q = p ∨ q = p + 1) s)
      (fun _ => ⟨.inr (s.call_calls a 11).sp, (s.call_calls a 11).entries_ne_sp⟩)
      (fun _ => (s.complete_passesBy 9).movesStack (.inl rfl))
  | rst aaa =>
    obtain ⟨u, hexec, hu⟩ := exec_rst_calls aaa s
    cases hexec.symm.trans h
    exact ⟨hu.sp, hu.entries_ne_sp⟩
  | ret =>
    cases h
    exact ⟨(s.ret_returns 5).sp, writesPcEntry_of_stk_eq (s.ret_returns 5).stk⟩
  | rfc _ | rtc _ =>
    cases h
    exact iteInduction (motive := MovesStack (fun p q => q = p ∨ q = p - 1) s)
      (fun _ => ⟨.inr (s.ret_returns 5).sp, writesPcEntry_of_stk_eq (s.ret_returns 5).stk⟩)
      (fun _ => (s.complete_passesBy 3).movesStack (.inl rfl))
  | _ =>
    have hstack : SameStack s t := (exec_effect h).sameStack nofun
    exact ⟨hstack, writesPcEntry_of_stk_eq hstack.2⟩

end Machine

end Sys2Proof
end

section
/-!
Memory and the test output over all instructions (R45, R53, R60, R244).
-/

namespace Sys2Proof.Machine

/-! ## Memory -/

/-- What a PCW cycle makes of memory depends on memory and the memory map alone (R53). -/
theorem State.memWrite_mem_congr {s u : State} (a : Addr) (v : Byte) (hmem : u.mem = s.mem) (hmap : u.memMap = s.memMap) :
    (u.memWrite a v).mem = (s.memWrite a v).mem := by
  have hkind : u.kindAt a = s.kindAt a := by rw [State.kindAt, State.kindAt, hmap]
  cases hk : s.kindAt a <;> simp [State.memWrite, hkind, hk, hmem]

/-- Memory after an instruction: the stores write one byte at the address of M, and the others nothing. -/
def memAfter (s : State) : Instr → Memory
  | .lMr r => (s.memWrite s.mAddr (s.reg r)).mem
  | .lMI v => (s.memWrite s.mAddr v).mem
  | _ => s.mem

@[simp] theorem State.aluReg_mem (s : State) (p : AluOp) (r : Reg) : (s.aluReg p r).mem = s.mem := by
  simp [State.aluReg]

@[simp] theorem State.aluMem_mem (s : State) (p : AluOp) : (s.aluMem p).mem = s.mem := by
  simp [State.aluMem]

@[simp] theorem State.aluImm_mem (s : State) (p : AluOp) (v : Byte) : (s.aluImm p v).mem = s.mem := by
  simp [State.aluImm]

@[simp] theorem State.rotateTo_mem (s : State) (v : Byte) (c : Bool) : (s.rotateTo v c).mem = s.mem := rfl

@[simp] theorem State.countTo_mem (s : State) (d : Reg) (v : Byte) (c : Bool) : (s.countTo d v c).mem = s.mem := by
  simp [State.countTo_eq]

theorem exec_mem {i : Instr} {s t : State} (h : exec i s = .next t) : t.mem = memAfter s i := by
  cases i with
  | lMr r =>
    cases h
    exact State.memWrite_mem_congr (u := s.regToB r) s.mAddr (s.reg r) rfl rfl
  | lMI v =>
    cases h
    exact State.memWrite_mem_congr (u := s.setTmpB v) s.mAddr v rfl rfl
  | lrM d =>
    rw [exec_lrM] at h
    cases h
    simp [memAfter]
  | inp mmm =>
    rw [exec_inp] at h
    cases h
    simp [memAfter]
  | jfc _ _ | jtc _ _ | cfc _ _ | ctc _ _ | rfc _ | rtc _ =>
    cases h
    exact iteInduction (motive := fun t : State => t.mem = s.mem) (fun _ => by simp) (fun _ => by simp)
  | unspecRotate _ | unspec38 | unspec39 => cases h
  | _ =>
    cases h
    simp [memAfter]

/-- Settles O23: the stores write the byte at the address of M alone. -/
theorem onlyStoresChangeMemory : Obligations.OnlyStoresChangeMemory := by
  intro i s t h
  have hmem := exec_mem h
  cases i with
  | lMr r =>
    intro a ha
    rw [hmem]
    exact s.memWrite_other s.mAddr (s.reg r) a ha
  | lMI v =>
    intro a ha
    rw [hmem]
    exact s.memWrite_other s.mAddr v a ha
  | _ => exact fun a => congrArg (fun m : Memory => m.read a) hmem

/-- Every instruction keeps the canonical form of memory. -/
theorem exec_mem_wf {i : Instr} {s t : State} (h : exec i s = .next t) (hwf : s.mem.wf = true) : t.mem.wf = true := by
  rw [exec_mem h]
  cases i with
  | lMr r => exact s.memWrite_wf s.mAddr (s.reg r) hwf
  | lMI v => exact s.memWrite_wf s.mAddr v hwf
  | _ => exact hwf

/-! ## The test output -/

theorem showsT4T5_iff (c : Cycle) (v4 v5 : Byte) (s t : State) :
    ShowsT4T5 c v4 v5 s t ↔ t.testBus = ⟨c, .T5, v5⟩ :: ⟨c, .T4, v4⟩ :: s.testBus := Iff.rfl

theorem State.showOpens_shows (s : State) (c : Cycle) :
    ShowsT4T5 c s.openByte (s.showOpen c .T4).openByte s (s.showOpens c) := rfl

theorem State.aluReg_shows (s : State) (p : AluOp) (r : Reg) :
    ShowsT4T5 .one (s.reg r) (s.regToB r).openByte s (s.aluReg p r) := by
  simp [showsT4T5_iff, State.aluReg]

theorem State.aluMem_shows (s : State) (p : AluOp) :
    ShowsT4T5 .two (s.memRead .pcr s.mAddr).2.openByte ((s.memRead .pcr s.mAddr).2.showOpen .two .T4).openByte s
      (s.aluMem p) := by
  simp [showsT4T5_iff, State.aluMem]

theorem State.aluImm_shows (s : State) (p : AluOp) (v : Byte) :
    ShowsT4T5 .two s.openByte (s.showOpen .two .T4).openByte s (s.aluImm p v) := by
  simp [showsT4T5_iff, State.aluImm]

theorem State.countTo_shows (s : State) (d : Reg) (v : Byte) (c : Bool) :
    ShowsT4T5 .one s.openByte (s.showOpen .one .T4).openByte s ((s.countTo d v c).complete 5) := by
  simp [showsT4T5_iff, State.countTo_eq]

/-- A conditional instruction shows one thing where it acts and another where it does not. -/
theorem shows_ite {p : Prop} [Decidable p] {P Q : State → Prop} {t u : State} (ht : P t) (hu : Q u) :
    if p then P (if p then t else u) else Q (if p then t else u) := by
  split
  · exact ht
  · exact hu

/-- Where only some bits of the bus are known, those are the bits of the byte shown (U12). -/
theorem getLsbD_of_known {known : Byte} {k : Nat} (h : known.getLsbD k = true) (v free : Byte) :
    ((v &&& known) ||| (free &&& ~~~known)).getLsbD k = v.getLsbD k := by
  simp [h]

/-- INP shows the flags in the low four bits of the bus, and the rest is free (R60, U12). -/
theorem exec_inp_shows (mmm : BitVec 3) (s : State) : ∃ t free, exec (.inp mmm) s = .next t ∧
    ShowsT4T5 .two (((0#4 ++ s.flagNibble) &&& 0x0F) ||| (free &&& ~~~0x0F)) t.tmpB s t :=
  ⟨_, ((s.ioIn (portOf 0 mmm)).2.setTmpB (s.ioIn (portOf 0 mmm)).1).openByte, exec_inp mmm s, by simp [showsT4T5_iff]⟩

/-- Settles O28: the bus after each kind of work, which shows the byte it moves. -/
theorem testBusShowsWhatIsMoved : Obligations.TestBusShowsWhatIsMoved := by
  intro i s t h
  cases i with
  | lr1r2 d r =>
    cases h
    simp [showsT4T5_iff]
  | lrM d =>
    rw [exec_lrM] at h
    cases h
    exact ⟨(s.memRead .pcr s.mAddr).2.setTmpB (s.memRead .pcr s.mAddr).1 |>.openByte, by simp [showsT4T5_iff]⟩
  | lrI d v =>
    cases h
    exact ⟨(s.setTmpB v).openByte, by simp [showsT4T5_iff]⟩
  | lMr r =>
    cases h
    simp
  | adr r | acr r | sur r | sbr r | ndr r | xrr r | orr r | cpr r =>
    cases h
    exact ⟨_, s.aluReg_shows _ r⟩
  | adm | acm | sum | sbm | ndm | xrm | orm | cpm =>
    cases h
    exact ⟨_, _, s.aluMem_shows _⟩
  | adi v | aci v | sui v | sbi v | ndi v | xri v | ori v | cpi v =>
    cases h
    exact ⟨_, _, s.aluImm_shows _ v⟩
  | inr d | dcr d =>
    cases h
    exact ⟨_, _, s.countTo_shows d _ _⟩
  | rlc | rrc | ral | rar =>
    cases h
    exact ⟨_, _, s.showOpens_shows .one⟩
  | ret =>
    cases h
    exact ⟨_, _, s.showOpens_shows .one⟩
  | jmp a | cal a =>
    cases h
    simp [showsT4T5_iff]
  | jfc c a | cfc c a | jtc c a | ctc c a =>
    cases h
    exact shows_ite (P := ShowsT4T5 .three s.tmpA s.tmpB s) (Q := ShowsNothing s) (by simp [showsT4T5_iff]) rfl
  | rfc c | rtc c =>
    cases h
    exact shows_ite (P := fun t => ∃ free4 free5, ShowsT4T5 .one free4 free5 s t) (Q := ShowsNothing s)
      ⟨_, _, s.showOpens_shows .one⟩ rfl
  | rst aaa =>
    cases h
    refine ⟨_, rfl, fun k hk => getLsbD_of_known ?_ s.tmpB _⟩
    obtain ⟨h3, h6⟩ := hk
    interval_cases k <;> rfl
  | inp mmm =>
    obtain ⟨u, free, hexec, hshows⟩ := exec_inp_shows mmm s
    cases hexec.symm.trans h
    obtain ⟨hS, hZ, hP, hC⟩ := flagNibble_bits s
    have hlow (k : Nat) (hk : k < 4) : (0#4 ++ s.flagNibble).getLsbD k = s.flagNibble.getLsbD k := by
      rw [BitVec.getLsbD_append, if_pos hk]
    refine ⟨_, hshows, ?_, ?_, ?_, ?_⟩
    · exact (getLsbD_of_known rfl _ _).trans ((hlow 0 (by decide)).trans hS)
    · exact (getLsbD_of_known rfl _ _).trans ((hlow 1 (by decide)).trans hZ)
    · exact (getLsbD_of_known rfl _ _).trans ((hlow 2 (by decide)).trans hP)
    · exact (getLsbD_of_known rfl _ _).trans ((hlow 3 (by decide)).trans hC)
  | lMI v =>
    cases h
    rw [ShowsNothing]
    simp
  | out _ _ | hlt | hltFF =>
    cases h
    rfl
  | unspecRotate _ | unspec38 | unspec39 => cases h

end Sys2Proof.Machine
end

section
/-!
Which instructions the flags can reach (R34): an instruction that reads no flip-flop makes the same of a state and of the state
with its flags, and the record of what the outside saw, hidden.
-/

namespace Sys2Proof.Machine

/-- The state as an instruction that reads no flip-flop sees it: the flags cleared, and the records of what the outside saw
of them empty. -/
def State.hide (s : State) : State :=
  { s with fC := false, fZ := false, fS := false, fP := false, events := [], testBus := [] }

/-! ## What is not hidden -/

@[simp] theorem State.hide_hide (s : State) : s.hide.hide = s.hide := rfl
@[simp] theorem State.hide_rA (s : State) : s.hide.rA = s.rA := rfl
@[simp] theorem State.hide_tmpA (s : State) : s.hide.tmpA = s.tmpA := rfl
@[simp] theorem State.hide_tmpB (s : State) : s.hide.tmpB = s.tmpB := rfl
@[simp] theorem State.hide_mAddr (s : State) : s.hide.mAddr = s.mAddr := rfl
@[simp] theorem State.hide_reg (s : State) (r : Reg) : s.hide.reg r = s.reg r := by
  cases r <;> rfl

/-! ## What the operations make of it -/

@[simp] theorem State.hide_setReg (s : State) (d : Reg) (v : Byte) : (s.setReg d v).hide = s.hide.setReg d v := by
  cases d <;> rfl
@[simp] theorem State.hide_setTmpA (s : State) (v : Byte) : (s.setTmpA v).hide = s.hide.setTmpA v := rfl
@[simp] theorem State.hide_setTmpB (s : State) (v : Byte) : (s.setTmpB v).hide = s.hide.setTmpB v := rfl
@[simp] theorem State.hide_regToB (s : State) (r : Reg) : (s.regToB r).hide = s.hide.setTmpB (s.reg r) := rfl
@[simp] theorem State.hide_setPc (s : State) (a : Addr) : (s.setPc a).hide = s.hide.setPc a := rfl
@[simp] theorem State.hide_call (s : State) (a : Addr) : (s.call a).hide = s.hide.call a := rfl
@[simp] theorem State.hide_pop (s : State) : s.pop.hide = s.hide.pop := rfl
@[simp] theorem State.hide_complete (s : State) (n : Nat) : (s.complete n).hide = s.hide.complete n := rfl
@[simp] theorem State.hide_halt (s : State) : s.halt.hide = s.hide.halt := rfl
@[simp] theorem State.hide_ioOut (s : State) (p : Port) (v : Byte) : (s.ioOut p v).hide = s.hide := rfl
@[simp] theorem State.hide_showBus (s : State) (c : Cycle) (p : TState) (v : Byte) : (s.showBus c p v).hide = s.hide := rfl
@[simp] theorem State.hide_showOpen (s : State) (c : Cycle) (p : TState) : (s.showOpen c p).hide = s.hide := rfl
@[simp] theorem State.hide_showOpens (s : State) (c : Cycle) : (s.showOpens c).hide = s.hide := rfl
@[simp] theorem State.hide_showTarget (s : State) : s.showTarget.hide = s.hide := rfl
@[simp] theorem State.hide_showBits (s : State) (c : Cycle) (p : TState) (v known : Byte) :
    (s.showBits c p v known).hide = s.hide := rfl
@[simp] theorem State.hide_setFC (s : State) (c : Bool) : (s.setFC c).hide = s.hide := rfl
@[simp] theorem State.hide_setZSP (s : State) (v : Byte) : (s.setZSP v).hide = s.hide := rfl

/-- A memory read answers the same byte. -/
@[simp] theorem State.hide_memRead_fst (s : State) (k : ReadKind) (a : Addr) :
    (s.hide.memRead k a).1 = (s.memRead k a).1 := by
  have hkind : s.hide.kindAt a = s.kindAt a := rfl
  cases hk : s.kindAt a <;> simp only [State.memRead, hkind, hk]
  all_goals rfl

/-- A memory read makes the same of what is not hidden. -/
theorem State.hide_memRead_snd (s : State) (k : ReadKind) (a : Addr) :
    (s.hide.memRead k a).2.hide = (s.memRead k a).2.hide := by
  have hkind : s.hide.kindAt a = s.kindAt a := rfl
  cases hk : s.kindAt a <;> simp only [State.memRead, hkind, hk]
  all_goals rfl

theorem State.hide_memWrite (s : State) (a : Addr) (v : Byte) : (s.hide.memWrite a v).hide = (s.memWrite a v).hide := by
  have hkind : s.hide.kindAt a = s.kindAt a := rfl
  cases hk : s.kindAt a <;> simp only [State.memWrite, hkind, hk]
  all_goals rfl

theorem State.memWrite_hide_congr {s u : State} (a : Addr) (v : Byte) (h : u.hide = s.hide) :
    (u.memWrite a v).hide = (s.memWrite a v).hide := by
  rw [← u.hide_memWrite, h, s.hide_memWrite]

/-- INP takes the same byte. -/
@[simp] theorem State.hide_ioIn_fst (s : State) (port : Port) : (s.hide.ioIn port).1 = (s.ioIn port).1 := by
  have hin : s.hide.inputs = s.inputs := rfl
  cases h : s.inputs <;> simp only [State.ioIn, State.nextInput, hin, h]
  all_goals rfl

/-- The I/O cycle of INP shows the flags to the outside only. -/
theorem State.hide_ioIn_snd (s : State) (port : Port) : (s.hide.ioIn port).2.hide = (s.ioIn port).2.hide := by
  have hin : s.hide.inputs = s.inputs := rfl
  cases h : s.inputs <;> simp only [State.ioIn, State.nextInput, hin, h]
  all_goals rfl

/-- The operations but AC and SB take no carry in (R130). -/
theorem alu_value_of_no_carry_in {p : AluOp} (hp : p ≠ .ac ∧ p ≠ .sb) (x y : Byte) (c d : Bool) :
    (alu p x y c).value = (alu p x y d).value := by
  cases p
  case ac => exact absurd rfl hp.1
  case sb => exact absurd rfl hp.2
  all_goals rfl

theorem State.hide_doAlu {p : AluOp} (hp : p ≠ .ac ∧ p ≠ .sb) {s u : State} (y : Byte) (h : u.hide = s.hide) :
    (u.doAlu p y).hide = (s.doAlu p y).hide := by
  have hA : u.rA = s.rA := by simpa using congrArg State.rA h
  have hvalue := alu_value_of_no_carry_in hp s.rA y u.fC s.fC
  cases hw : aluWritesA p <;> simp [State.doAlu, hw, hA, h, hvalue]

theorem State.hide_aluReg {p : AluOp} (hp : p ≠ .ac ∧ p ≠ .sb) (s : State) (r : Reg) :
    (s.hide.aluReg p r).hide = (s.aluReg p r).hide := by
  rw [State.aluReg, State.aluReg, State.hide_complete, State.hide_complete, State.hide_reg,
    State.hide_doAlu hp (s.reg r) (s := (s.regToB r).showOpen .one .T5) (by simp)]

theorem State.hide_aluMem {p : AluOp} (hp : p ≠ .ac ∧ p ≠ .sb) (s : State) : (s.hide.aluMem p).hide = (s.aluMem p).hide := by
  simp only [State.aluMem, State.hide_complete, State.hide_mAddr, State.hide_memRead_fst]
  rw [State.hide_doAlu hp _ (s := (s.memRead .pcr s.mAddr).2.showOpens .two) (by simp [State.hide_memRead_snd])]

theorem State.hide_aluImm {p : AluOp} (hp : p ≠ .ac ∧ p ≠ .sb) (s : State) (v : Byte) :
    (s.hide.aluImm p v).hide = (s.aluImm p v).hide := by
  rw [State.aluImm, State.aluImm, State.hide_complete, State.hide_complete,
    State.hide_doAlu hp v (s := s.showOpens .two) (by simp)]

/-! ## The instructions -/

/-- The instruction reads a flip-flop: the operations with a carry in, the rotates through the carry, and the conditional
instructions (R34). -/
def readsFlags : Instr → Bool
  | .acr _ | .acm | .aci _ | .sbr _ | .sbm | .sbi _ | .ral | .rar => true
  | .jfc _ _ | .jtc _ _ | .cfc _ _ | .ctc _ _ | .rfc _ | .rtc _ => true
  | _ => false

/-- What an instruction answers, with its next state hidden. -/
def hideNext : Host.Outcome State Fault Refusal → Host.Outcome State Fault Refusal
  | .next t => .next t.hide
  | .fault r => .fault r
  | .refused r => .refused r

theorem hideNext_next {s t : State} (h : s.hide = t.hide) : hideNext (.next s) = hideNext (.next t) :=
  congrArg Host.Outcome.next h

/-- Hiding the flags before an instruction that reads none changes nothing of what is not hidden after it. -/
theorem exec_hide {i : Instr} (hi : readsFlags i = false) (s : State) : hideNext (exec i s.hide) = hideNext (exec i s) := by
  cases i with
  | acr _ | acm | aci _ | sbr _ | sbm | sbi _ | ral | rar | jfc _ _ | jtc _ _ | cfc _ _ | ctc _ _ | rfc _ | rtc _ => cases hi
  | adr r | sur r | ndr r | xrr r | orr r | cpr r => exact hideNext_next (State.hide_aluReg (by decide) s r)
  | adm | sum | ndm | xrm | orm | cpm => exact hideNext_next (State.hide_aluMem (by decide) s)
  | adi v | sui v | ndi v | xri v | ori v | cpi v => exact hideNext_next (State.hide_aluImm (by decide) s v)
  | lMr r =>
    rw [exec_lMr, exec_lMr]
    refine hideNext_next ?_
    rw [State.hide_complete, State.hide_complete, State.hide_mAddr, State.hide_reg,
      State.memWrite_hide_congr (s := s.regToB r) s.mAddr (s.reg r) (by simp)]
  | lMI v =>
    rw [exec_lMI, exec_lMI]
    refine hideNext_next ?_
    rw [State.hide_complete, State.hide_complete, State.hide_mAddr,
      State.memWrite_hide_congr (s := s.setTmpB v) s.mAddr v (by simp)]
  | lrM d =>
    rw [exec_lrM, exec_lrM]
    refine hideNext_next ?_
    simp [State.hide_memRead_snd]
  | inp mmm =>
    rw [exec_inp, exec_inp]
    refine hideNext_next ?_
    simp [State.hide_ioIn_snd]
  | unspecRotate _ | unspec38 | unspec39 => rfl
  | inr d | dcr d =>
    refine hideNext_next ?_
    simp [State.countTo_eq]
  | rlc | rrc =>
    refine hideNext_next ?_
    simp [State.rotateTo]
  | lr1r2 _ _ | lrI _ _ | jmp _ | cal _ | ret | rst _ | out _ _ | hlt | hltFF =>
    refine hideNext_next ?_
    simp

/-- Two states that differ in what is hidden only answer states that do. -/
theorem exec_of_hide_eq {i : Instr} {s u t : State} (hi : readsFlags i = false) (hu : u.hide = s.hide)
    (h : exec i s = .next t) : ∃ w, exec i u = .next w ∧ w.hide = t.hide := by
  have hnext : hideNext (exec i u) = .next t.hide := by
    rw [← exec_hide hi u, hu, exec_hide hi s, h]
    rfl
  cases hexec : exec i u with
  | next w =>
    rw [hexec] at hnext
    exact ⟨w, rfl, Host.Outcome.next.inj hnext⟩
  | fault r => nomatch r
  | refused r =>
    rw [hexec] at hnext
    cases hnext

/-- Registers, stack, memory and STOPPED are not hidden. -/
theorem same_of_hide_eq {t u : State} (h : u.hide = t.hide) :
    SameRegs t u ∧ SameStack t u ∧ u.mem = t.mem ∧ u.stopped = t.stopped := by
  have hsp : u.hide.sp = t.hide.sp := by rw [h]
  have hstk : u.hide.stk = t.hide.stk := by rw [h]
  have hmem : u.hide.mem = t.hide.mem := by rw [h]
  have hstopped : u.hide.stopped = t.hide.stopped := by rw [h]
  exact ⟨fun r => by rw [← u.hide_reg, h, t.hide_reg], ⟨hsp, hstk⟩, hmem, hstopped⟩

/-- Settles O27: what the statement compares is not hidden. -/
theorem flagsReachOnlyTheirReaders : Obligations.FlagsReachOnlyTheirReaders := by
  intro i s t c z g p h
  have hsame (hi : readsFlags i = false) :
      ∃ u, exec i { s with fC := c, fZ := z, fS := g, fP := p } = .next u ∧
        SameRegs t u ∧ SameStack t u ∧ u.mem = t.mem ∧ u.stopped = t.stopped := by
    obtain ⟨u, hexec, hu⟩ := exec_of_hide_eq (u := { s with fC := c, fZ := z, fS := g, fP := p }) (s := s) hi rfl h
    exact ⟨u, hexec, same_of_hide_eq hu⟩
  cases i with
  | acr _ | acm | aci _ | sbr _ | sbm | sbi _ | ral | rar | jfc _ _ | jtc _ _ | cfc _ _ | ctc _ _ | rfc _ | rtc _ => trivial
  | _ => exact hsame rfl

end Sys2Proof.Machine
end

section
/-!
What a step keeps: the machine's invariant (R40, R41, R50), the platform's fields in their order (R16, R60, R73, R267), and a
next state but in the two refusals of R93 and R238.
-/

namespace Sys2Proof.Machine

/-! ## The invariant -/

@[simp] theorem State.afterOffers_mem (s : State) (n : Nat) : (s.afterOffers n).mem = s.mem := rfl

/-- An instruction that begins running ends at a boundary: T1 of the next PCI cycle, or T3 where it stopped (R40, R41). -/
theorem exec_atBoundary {i : Instr} {s t : State} (h : exec i s = .next t) (hrun : s.stopped = false) : t.AtBoundary := by
  obtain ⟨_, rfl⟩ | ⟨_, hcomplete⟩ := exec_cases h
  · exact ⟨rfl, rfl⟩
  · have hstopped : t.stopped = false := hcomplete.stopped_eq.trans hrun
    obtain ⟨u, n, _, rfl⟩ := hcomplete
    exact ⟨rfl, by rw [hstopped]; rfl⟩

/-- An instruction that begins running with canonical memory ends with the invariant. -/
theorem exec_inv {i : Instr} {s t : State} (h : exec i s = .next t) (hwf : s.mem.wf = true) (hrun : s.stopped = false) :
    t.Inv :=
  ⟨exec_mem_wf h hwf, exec_atBoundary h hrun⟩

/-- Settles O17: memory lists nothing, and the state counter is in T3. -/
theorem resetMeetsTheInvariant : Obligations.ResetMeetsTheInvariant :=
  ⟨rfl, rfl, rfl⟩

/-- Settles O16, field by field. -/
theorem resetValues : Obligations.ResetValues := by
  refine ⟨⟨rfl, rfl, rfl, rfl, rfl, rfl, rfl, rfl, rfl, rfl⟩, rfl, fun r => ?_, fun c => ?_, rfl, rfl, rfl, rfl, rfl, rfl, rfl,
    rfl, rfl, rfl, rfl, rfl, rfl, rfl⟩
  · cases r <;> rfl
  · cases c <;> rfl

/-- Settles O18: the interrupt and the fetch leave memory canonical and the processor running, and what is then executed ends
at a boundary; the stopped machine stays at its own. -/
theorem stepKeepsTheInvariant : Obligations.StepKeepsTheInvariant := by
  intro s t hinv hstep
  obtain ⟨hwf, hboundary⟩ := hinv
  obtain ⟨op, _, hjam⟩ | ⟨_, hstopped, hstay⟩ | ⟨_, hrun, hfetch⟩ := step_cases s
  · obtain ⟨_, hexec⟩ | ⟨_, hrefused⟩ := runJammed_cases op s.nextOffer.2
    · exact exec_inv (hexec.symm.trans (hjam.symm.trans hstep)) (by simpa using hwf) rfl
    · cases hrefused.symm.trans (hjam.symm.trans hstep)
  · cases hstay.symm.trans hstep
    exact ⟨by simpa using hwf, by simpa [State.AtBoundary] using hboundary⟩
  · exact exec_inv (hfetch.symm.trans hstep) (by simpa using hwf) (by simpa using hrun)

/-! ## The platform -/

/-- What was there for the outside is used in order: input bytes from the front, more draws and states, and the records of what
the outside saw only longer. -/
structure Extends (s t : State) : Prop where
  inputs : ∃ taken, s.inputs = taken ++ t.inputs
  draws : s.draws ≤ t.draws
  states : s.states ≤ t.states
  events : ∃ new, t.events = new ++ s.events
  testBus : ∃ shown, t.testBus = shown ++ s.testBus

theorem Extends.refl (s : State) : Extends s s :=
  ⟨⟨[], rfl⟩, le_rfl, le_rfl, ⟨[], rfl⟩, ⟨[], rfl⟩⟩

theorem Extends.trans {s t u : State} (h : Extends s t) (h' : Extends t u) : Extends s u where
  inputs := by
    obtain ⟨a, ha⟩ := h.inputs
    obtain ⟨b, hb⟩ := h'.inputs
    exact ⟨a ++ b, by rw [ha, hb, List.append_assoc]⟩
  draws := h.draws.trans h'.draws
  states := h.states.trans h'.states
  events := by
    obtain ⟨a, ha⟩ := h.events
    obtain ⟨b, hb⟩ := h'.events
    exact ⟨b ++ a, by rw [hb, ha, List.append_assoc]⟩
  testBus := by
    obtain ⟨a, ha⟩ := h.testBus
    obtain ⟨b, hb⟩ := h'.testBus
    exact ⟨b ++ a, by rw [hb, ha, List.append_assoc]⟩

/-- A state whose fields for the outside are the same extends the other. -/
theorem Extends.of_eq {s t : State} (hinputs : t.inputs = s.inputs := by simp) (hdraws : t.draws = s.draws := by simp)
    (hstates : t.states = s.states := by simp) (hevents : t.events = s.events := by simp)
    (hbus : t.testBus = s.testBus := by simp) : Extends s t :=
  ⟨⟨[], hinputs.symm⟩, hdraws.ge, hstates.ge, ⟨[], hevents⟩, ⟨[], hbus⟩⟩

section
variable {s u : State} (h : Extends s u)
include h

/-! The operations, after work that extends `s`. -/

theorem Extends.setReg (d : Reg) (v : Byte) : Extends s (u.setReg d v) := h.trans .of_eq
theorem Extends.setTmpA (v : Byte) : Extends s (u.setTmpA v) := h.trans .of_eq
theorem Extends.setTmpB (v : Byte) : Extends s (u.setTmpB v) := h.trans .of_eq
theorem Extends.setFC (c : Bool) : Extends s (u.setFC c) := h.trans .of_eq
theorem Extends.setZSP (v : Byte) : Extends s (u.setZSP v) := h.trans .of_eq
theorem Extends.setPc (a : Addr) : Extends s (u.setPc a) := h.trans .of_eq
theorem Extends.call (a : Addr) : Extends s (u.call a) := h.trans .of_eq
theorem Extends.pop : Extends s u.pop := h.trans .of_eq
theorem Extends.doAlu (p : AluOp) (y : Byte) : Extends s (u.doAlu p y) := h.trans .of_eq

theorem Extends.showBus (c : Cycle) (p : TState) (v : Byte) : Extends s (u.showBus c p v) :=
  h.trans ⟨⟨[], rfl⟩, le_rfl, le_rfl, ⟨[], rfl⟩, ⟨[⟨c, p, v⟩], rfl⟩⟩

theorem Extends.showOpens (c : Cycle) : Extends s (u.showOpens c) := (h.showBus c .T4 _).showBus c .T5 _

theorem Extends.showTarget : Extends s u.showTarget := (h.showBus .three .T4 _).showBus .three .T5 _

theorem Extends.regToB (r : Reg) : Extends s (u.regToB r) := (h.showBus .one .T4 _).setTmpB _

theorem Extends.bToReg (c : Cycle) (d : Reg) : Extends s (u.bToReg c d) := (h.showBus c .T5 _).setReg d _

theorem Extends.complete (n : Nat) : Extends s (u.complete n) :=
  h.trans ⟨⟨[], rfl⟩, le_rfl, Nat.le_add_right _ n, ⟨[], rfl⟩, ⟨[], rfl⟩⟩

theorem Extends.halt : Extends s u.halt :=
  h.trans ⟨⟨[], rfl⟩, le_rfl, Nat.le_add_right _ 4, ⟨[], rfl⟩, ⟨[], rfl⟩⟩

theorem Extends.ioOut (port : Port) (v : Byte) : Extends s (u.ioOut port v) :=
  h.trans ⟨⟨[], rfl⟩, le_rfl, le_rfl, ⟨[.output port v], rfl⟩, ⟨[], rfl⟩⟩

theorem Extends.memRead (k : ReadKind) (a : Addr) : Extends s (u.memRead k a).2 := by
  obtain ⟨hevents, hinputs, hbyte⟩ := u.memRead_spec k a
  have hdraws : u.draws ≤ (u.memRead k a).2.draws := by
    obtain ⟨_, _, hdraws⟩ | ⟨_, _, hdraws⟩ := hbyte <;> omega
  exact h.trans ⟨⟨[], hinputs.symm⟩, hdraws, by simp, ⟨[.read k a], hevents⟩, ⟨[], by simp⟩⟩

theorem Extends.memWrite (a : Addr) (v : Byte) : Extends s (u.memWrite a v) := by
  have hevents : (u.memWrite a v).events = [.write a v] ++ u.events := by
    cases hk : u.kindAt a <;> simp [State.memWrite, hk]
  exact h.trans ⟨⟨[], by simp⟩, by simp, by simp, ⟨[.write a v], hevents⟩, ⟨[], by simp⟩⟩

theorem Extends.ioIn (port : Port) : Extends s (u.ioIn port).2 := by
  obtain ⟨hevents, ⟨rest, hin, hrest, hdraws⟩ | ⟨hin, _, hnone, hdraws⟩⟩ := u.ioIn_spec port
  · exact h.trans ⟨⟨[_], by rw [hin, hrest]; rfl⟩, hdraws.ge, by simp, ⟨[_], hevents⟩, ⟨[], by simp⟩⟩
  · exact h.trans ⟨⟨[], by rw [hin, hnone]; rfl⟩, by omega, by simp, ⟨[_], hevents⟩, ⟨[], by simp⟩⟩

theorem Extends.fetchByte (k : ReadKind) : Extends s (u.fetchByte k).2 := (h.memRead k u.pc).setPc _

theorem Extends.fetchOpcode : Extends s u.fetchOpcode.2 := (h.fetchByte .pci).trans (.of_eq rfl rfl rfl rfl rfl)

theorem Extends.fetchSecond : Extends s u.fetchSecond.2 := (h.fetchByte .pcr).setTmpB _

theorem Extends.fetchThird : Extends s u.fetchThird.2 := (h.fetchByte .pcr).setTmpA _

end

/-- A fetch of a whole instruction only extends what the outside saw. -/
theorem State.fetchInstr_extends (s : State) : Extends s s.fetchInstr.2 := by
  have h := (Extends.refl s).fetchOpcode
  cases hsize : insnSize s.fetchOpcode.1 <;> simp only [State.fetchInstr, hsize]
  · exact h
  · exact h.fetchSecond
  · exact h.fetchSecond.fetchThird

/-- So does an instruction. -/
theorem exec_extends {i : Instr} {s t : State} (h : exec i s = .next t) : Extends s t := by
  have hs := Extends.refl s
  cases i with
  | lr1r2 d r =>
    cases h
    exact ((hs.regToB r).bToReg .one d).complete 5
  | lrM d =>
    rw [exec_lrM] at h
    cases h
    exact ((((hs.memRead .pcr s.mAddr).setTmpB _).showBus .two .T4 _).bToReg .two d).complete 8
  | lMr r =>
    cases h
    exact ((hs.regToB r).memWrite s.mAddr _).complete 7
  | lrI d v =>
    cases h
    exact (((hs.setTmpB v).showBus .two .T4 _).bToReg .two d).complete 8
  | lMI v =>
    cases h
    exact ((hs.setTmpB v).memWrite s.mAddr v).complete 9
  | inr d | dcr d =>
    cases h
    exact (((hs.showOpens .one).setReg d _).setZSP _).complete 5
  | adr r | acr r | sur r | sbr r | ndr r | xrr r | orr r | cpr r =>
    cases h
    exact (((hs.regToB r).showBus .one .T5 _).doAlu _ _).complete 5
  | adm | acm | sum | sbm | ndm | xrm | orm | cpm =>
    cases h
    exact (((hs.memRead .pcr s.mAddr).showOpens .two).doAlu _ _).complete 8
  | adi v | aci v | sui v | sbi v | ndi v | xri v | ori v | cpi v =>
    cases h
    exact ((hs.showOpens .two).doAlu _ v).complete 8
  | rlc | rrc | ral | rar =>
    cases h
    exact (((hs.showOpens .one).setReg .A _).setFC _).complete 5
  | jmp a =>
    cases h
    exact (hs.showTarget.setPc a).complete 11
  | jfc _ a | jtc _ a =>
    cases h
    exact iteInduction (motive := Extends s) (fun _ => (hs.showTarget.setPc a).complete 11) (fun _ => hs.complete 9)
  | cal a =>
    cases h
    exact (hs.showTarget.call a).complete 11
  | cfc _ a | ctc _ a =>
    cases h
    exact iteInduction (motive := Extends s) (fun _ => (hs.showTarget.call a).complete 11) (fun _ => hs.complete 9)
  | ret =>
    cases h
    exact (hs.showOpens .one).pop.complete 5
  | rfc _ | rtc _ =>
    cases h
    exact iteInduction (motive := Extends s) (fun _ => (hs.showOpens .one).pop.complete 5) (fun _ => hs.complete 3)
  | rst aaa =>
    cases h
    exact ((((hs.setTmpA 0).showBus .one .T4 0).showBus .one .T5 _).call _).complete 5
  | inp mmm =>
    rw [exec_inp] at h
    cases h
    exact ((((hs.ioIn _).setTmpB _).showBus .two .T4 _).bToReg .two .A).complete 8
  | out rr mmm =>
    cases h
    exact (hs.ioOut _ _).complete 6
  | hlt | hltFF =>
    cases h
    exact hs.halt
  | unspecRotate _ | unspec38 | unspec39 => cases h

/-- An instruction leaves the memory map and the offers alone. -/
theorem exec_memMap_offers {i : Instr} {s t : State} (h : exec i s = .next t) : t.memMap = s.memMap ∧ SameOffers s t := by
  obtain ⟨_, rfl⟩ | ⟨_, u, n, ⟨_, _, hmap, hoffers⟩, rfl⟩ := exec_cases h
  · exact ⟨rfl, rfl, rfl⟩
  · exact ⟨hmap, hoffers⟩

/-- Between `s` and `u`, some way into a step, the platform's fields were used in order and one offer was used up. -/
structure UsesPlatform (s u : State) : Prop where
  memMap : u.memMap = s.memMap
  offer : UsedOneOffer s u
  longer : Extends s u

theorem State.nextOffer_usesPlatform (s : State) : UsesPlatform s s.nextOffer.2 where
  memMap := by simp
  offer := by
    rw [s.nextOffer_snd]
    exact ⟨rfl, rfl⟩
  longer := .of_eq

theorem UsesPlatform.acceptInterrupt {s u : State} (h : UsesPlatform s u) (op : Byte) :
    UsesPlatform s (u.acceptInterrupt op) :=
  ⟨h.memMap, h.offer, h.longer.trans .of_eq⟩

theorem UsesPlatform.fetchInstr {s u : State} (h : UsesPlatform s u) : UsesPlatform s u.fetchInstr.2 where
  memMap := u.fetchInstr_memMap.trans h.memMap
  offer := by
    obtain ⟨hoffers, hdrawn⟩ := h.offer
    exact ⟨u.fetchInstr_interrupts.trans hoffers, u.fetchInstr_offersDrawn.trans hdrawn⟩
  longer := h.longer.trans u.fetchInstr_extends

theorem UsesPlatform.exec {i : Instr} {s u t : State} (h : UsesPlatform s u) (hexec : exec i u = .next t) :
    UsesPlatform s t := by
  obtain ⟨hmap, hoffers, hdrawn⟩ := exec_memMap_offers hexec
  obtain ⟨hoffers', hdrawn'⟩ := h.offer
  exact ⟨hmap.trans h.memMap, ⟨hoffers.trans hoffers', hdrawn.trans hdrawn'⟩, h.longer.trans (exec_extends hexec)⟩

theorem step_usesPlatform {s t : State} (h : step s = .next t) : UsesPlatform s t := by
  have hoffer := s.nextOffer_usesPlatform
  obtain ⟨op, _, hjam⟩ | ⟨_, _, hstay⟩ | ⟨_, _, hfetch⟩ := step_cases s
  · obtain ⟨_, hexec⟩ | ⟨_, hrefused⟩ := runJammed_cases op s.nextOffer.2
    · exact (hoffer.acceptInterrupt op).exec (hexec.symm.trans (hjam.symm.trans h))
    · cases hrefused.symm.trans (hjam.symm.trans h)
  · cases hstay.symm.trans h
    exact hoffer
  · exact hoffer.fetchInstr.exec (hfetch.symm.trans h)

/-- Settles O20: taking the offer, the interrupt or the fetch, and the instruction each use the platform in order. -/
theorem stepUsesThePlatformInOrder : Obligations.StepUsesThePlatformInOrder := by
  intro s t h
  have hstep := step_usesPlatform h
  obtain ⟨hinputs, hdraws, hstates, hevents, hbus⟩ := hstep.longer
  exact ⟨hstep.memMap, hstep.offer, hinputs, hdraws, hstates, hevents, hbus⟩

end Sys2Proof.Machine
end

section
/-!
The two refusals of a step (R93, R238), and what a fetch reads and leaves (R27, R28).
-/

namespace Sys2Proof.Machine

/-! ## Instructions without a meaning -/

/-- The first byte of an instruction that no row of the source covers (R93). -/
def unspecByte : Instr → Option Byte
  | .unspecRotate xx => some (0b001#3 ++ xx ++ 0b010#3)
  | .unspec38 => some 0x38
  | .unspec39 => some 0x39
  | _ => none

/-- An instruction answers a next state unless it is unspecified, and then it is refused by its byte. -/
theorem exec_next_or_unspecified (i : Instr) (s : State) :
    (∃ t, exec i s = .next t) ∨ ∃ op, unspecByte i = some op ∧ exec i s = .refused (.unspecifiedOpcode op) := by
  cases i with
  | unspecRotate _ | unspec38 | unspec39 => exact .inr ⟨_, rfl, rfl⟩
  | _ => exact .inl ⟨_, rfl⟩

/-- The byte an unspecified instruction is refused by is the first byte it was read from, one of the six of R93. -/
theorem unspecByte_of_reads {b2 b3 op v : Byte} {i : Instr} (h : Reads b2 b3 op i) (hv : unspecByte i = some v) :
    v = op ∧ op ∈ Config.unspecifiedOpcodes := by
  cases h with
  | unspecRotate xx =>
    cases hv
    revert xx
    decide
  | unspec38 | unspec39 =>
    cases hv
    decide
  | aluR p | aluM p | aluI p => cases p <;> cases hv
  | _ => cases hv

/-- What the decoder reads from a first byte is executed, or refused by that byte, which is then one of the six. -/
theorem exec_decodeOp_next_or_refused (op b2 b3 : Byte) (s : State) :
    (∃ t, exec (decodeOp op b2 b3) s = .next t) ∨
      (op ∈ Config.unspecifiedOpcodes ∧ exec (decodeOp op b2 b3) s = .refused (.unspecifiedOpcode op)) := by
  obtain hnext | ⟨v, hv, hrefused⟩ := exec_next_or_unspecified (decodeOp op b2 b3) s
  · exact .inl hnext
  · obtain ⟨rfl, hmem⟩ := unspecByte_of_reads (decodeOp_reads op b2 b3) hv
    exact .inr ⟨hmem, hrefused⟩

/-! ## The first byte of a fetch -/

/-- What a read answers depends on memory, its map and the count of draws alone. -/
theorem State.memRead_fst_of_eq {s u : State} (k : ReadKind) (a : Addr) (hmem : u.mem = s.mem)
    (hmap : u.memMap = s.memMap) (hdraws : u.draws = s.draws) : (u.memRead k a).1 = (s.memRead k a).1 := by
  by_cases h : s.HasMemory a
  · exact State.memRead_fst_congr k h hmap (by rw [hmem])
  · have hu : ¬ u.HasMemory a := fun hu => h ((s.hasMemory_congr u a hmap).mp hu)
    rw [u.memRead_open k a hu, s.memRead_open k a h]
    exact congrArg Config.openBusByte hdraws

/-- Taking the offer changes nothing the fetch reads. -/
theorem State.nextOffer_fetchByte (s : State) (k : ReadKind) : (s.nextOffer.2.fetchByte k).1 = (s.fetchByte k).1 := by
  have hpc : s.nextOffer.2.pc = s.pc := by simp [State.pc]
  rw [State.fetchByte_fst, State.fetchByte_fst, hpc]
  exact State.memRead_fst_of_eq k s.pc (by simp) (by simp) (by simp)

/-- IR holds the first byte after the whole fetch. -/
theorem State.fetchInstr_ir_eq (s : State) : s.fetchInstr.2.ir = (s.fetchByte .pci).1 := by
  have h : s.fetchInstr.2.ir = s.fetchOpcode.1 := by
    cases hsize : insnSize s.fetchOpcode.1 <;> simp [State.fetchInstr, hsize]
  exact h

/-- Settles O19: a step is refused where its byte is jammed and begins a longer instruction, or where the byte is one of the six;
otherwise the stopped state or the instruction answers. -/
theorem onlyTwoKindsOfStepAreRefused : Obligations.OnlyTwoKindsOfStepAreRefused := by
  intro s
  obtain ⟨op, hoffer, hjam⟩ | ⟨_, _, hstay⟩ | ⟨hnone, hrun, hfetch⟩ := step_cases s
  · have hoffers : s.Offers op := s.nextOffer_fst.symm.trans hoffer
    rw [hjam]
    obtain ⟨_, hexec⟩ | ⟨hsize, hrefused⟩ := runJammed_cases op s.nextOffer.2
    · rw [hexec]
      obtain hnext | ⟨hmem, hrefused⟩ := exec_decodeOp_next_or_refused op 0 0 (s.nextOffer.2.acceptInterrupt op)
      · exact .inl hnext
      · exact .inr (.inr ⟨op, hmem, hrefused, .inl hoffers⟩)
    · exact .inr (.inl ⟨op, hoffers, hsize, hrefused⟩)
  · exact .inl ⟨_, hstay⟩
  · have hir : s.nextOffer.2.fetchInstr.2.ir = (s.fetchByte .pci).1 :=
      (State.fetchInstr_ir_eq _).trans (s.nextOffer_fetchByte .pci)
    obtain ⟨b2, b3, hdecode⟩ := s.nextOffer.2.fetchInstr_ir
    rw [hfetch, hdecode, hir]
    obtain hnext | ⟨hmem, hrefused⟩ := exec_decodeOp_next_or_refused (s.fetchByte .pci).1 b2 b3 s.nextOffer.2.fetchInstr.2
    · exact .inl hnext
    · exact .inr (.inr ⟨_, hmem, hrefused, .inr ⟨s.nextOffer_fst.symm.trans hnone, hrun, rfl⟩⟩)

/-! ## One byte -/

/-- Settles O10: a fetch is a read at PC and the write of PC. -/
theorem fetchReadsAtPcAndAdvances : Obligations.FetchReadsAtPcAndAdvances := by
  intro s k
  have hread : ReadsByte k s.pc (s.fetchByte k).1 s (s.fetchByte k).2 := s.memRead_spec k s.pc
  refine ⟨hread, ?_, by simp, fun n hn => s.fetchByte_entry k n hn, fun r => by simp, fun c => by simp, fun a => by simp,
    by simp [sameControl_iff], by simp, by simp, by simp, s.fetchByte_testBus k⟩
  rw [s.fetchByte_pc k, BitVec.toNat_add]
  rfl

end Sys2Proof.Machine
end

section
/-!
How an instruction comes to run: jammed by an interrupt (R232 to R239, R262), fetched where memory holds it (R27, R62, R110),
or placed where the next fetch reads it.
-/

namespace Sys2Proof.Machine

/-! ## The entry of an interrupt -/

theorem step_of_offers {s : State} {op : Byte} (h : s.Offers op) : step s = runJammed op s.nextOffer.2 := by
  have hoffer : s.nextOffer.1 = some op := s.nextOffer_fst.trans h
  obtain ⟨op', hsome, hjam⟩ | ⟨hnone, _⟩ | ⟨hnone, _⟩ := step_cases s
  · cases hsome.symm.trans hoffer
    exact hjam
  · cases hnone.symm.trans hoffer
  · cases hnone.symm.trans hoffer

/-- Between `s` and `u` the offer of the boundary was taken and its byte accepted as an interrupt. -/
structure Accepts (op : Byte) (s u : State) : Prop where
  stopped : u.stopped = false
  ir : u.ir = op
  tmpB : u.tmpB = op
  tmpA : u.tmpA = s.tmpA
  regs : SameRegs s u
  flags : SameFlags s u
  stack : SameStack s u
  mem : u.mem = s.mem
  memMap : u.memMap = s.memMap
  cycle : NoCycle s u
  shows : ShowsNothing s u
  took : Took 0 s u
  offer : UsedOneOffer s u

theorem State.acceptInterrupt_accepts (s : State) (op : Byte) : Accepts op s (s.nextOffer.2.acceptInterrupt op) where
  stopped := rfl
  ir := rfl
  tmpB := rfl
  tmpA := by simp
  regs r := by simp
  flags c := by simp
  stack := ⟨by simp, by simp⟩
  mem := by simp
  memMap := by simp
  cycle := ⟨by simp, by simp, by simp⟩
  shows := s.nextOffer_testBus
  took := ⟨by simp, rfl, rfl⟩
  offer := (s.nextOffer_usesPlatform.acceptInterrupt op).offer

/-- A jammed byte of a one-byte instruction runs it after the entry (R233). -/
theorem step_of_jam {s : State} {op : Byte} {i : Instr} (h : s.Offers op) (hsize : insnSize op = .one)
    (hread : Reads 0 0 op i) : ∃ u, step s = exec i u ∧ Accepts op s u := by
  refine ⟨_, ?_, s.acceptInterrupt_accepts op⟩
  obtain ⟨_, hexec⟩ | ⟨hlong, _⟩ := runJammed_cases op s.nextOffer.2
  · rw [step_of_offers h, hexec, hread.decodeOp_eq]
  · exact absurd hsize hlong

/-- Settles O12: the entry of the interrupt, field by field. -/
theorem interruptRunsTheJammedByte : Obligations.InterruptRunsTheJammedByte := by
  intro s op hoffer hsize
  obtain ⟨u, hstep, h⟩ := step_of_jam hoffer hsize (decodeOp_reads op 0 0)
  exact ⟨u, hstep, h.stopped, h.ir, h.tmpB, h.tmpA, h.regs, h.flags, h.stack, h.mem, h.memMap, h.cycle, h.shows, h.took,
    h.offer⟩

/-- Settles O13: the case of a jammed byte that is not the first of one. -/
theorem multiByteJamIsRefused : Obligations.MultiByteJamIsRefused := by
  intro s op hoffer hlong
  rw [step_of_offers hoffer]
  obtain ⟨hsize, _⟩ | ⟨_, hrefused⟩ := runJammed_cases op s.nextOffer.2
  · rw [hsize] at hlong
    exact absurd hlong (by decide)
  · exact hrefused

theorem SameOffers.trans {s t u : State} (h : SameOffers s t) (h' : SameOffers t u) : SameOffers s u := by
  obtain ⟨hoffers, hdrawn⟩ := h
  obtain ⟨hoffers', hdrawn'⟩ := h'
  exact ⟨hoffers'.trans hoffers, hdrawn'.trans hdrawn⟩

theorem NoCycle.trans {s t u : State} (h : NoCycle s t) (h' : NoCycle t u) : NoCycle s u := by
  obtain ⟨hevents, hdraws, hinputs⟩ := h
  obtain ⟨hevents', hdraws', hinputs'⟩ := h'
  exact ⟨hevents'.trans hevents, hdraws'.trans hdraws, hinputs'.trans hinputs⟩

/-- Settles O14: the call of RST, from the state after the entry. -/
theorem jammedRestartKeepsTheReturnAddress : Obligations.JammedRestartKeepsTheReturnAddress := by
  intro s n hoffer
  obtain ⟨u, hstep, hjam⟩ := step_of_jam hoffer (insnSize_byteOf 0 n 5) (.rst n)
  obtain ⟨t, hexec, hcall⟩ := exec_rst_calls n u
  obtain ⟨hsp, hstk⟩ := hjam.stack
  obtain ⟨_, hstopped, _, hoffers⟩ := hcall.control
  obtain ⟨hstates, _⟩ := hcall.took
  obtain ⟨hstates', _⟩ := hjam.took
  have htsp : t.sp = s.sp + 1 := hcall.sp.trans (congrArg (· + 1) hsp)
  have hentries (k : Fin 8) (hk : k ≠ s.sp + 1) : t.stk[k] = s.stk[k] := by
    rw [← htsp] at hk
    calc t.stk[k] = u.stk[k] := hcall.entries_ne_sp k hk
      _ = s.stk[k] := by rw [hstk]
  refine ⟨t, hstep.trans hexec, hstopped.trans hjam.stopped, by rw [hcall.pc, restartAddr_toNat], htsp,
    hentries s.sp (sp_ne_add_one s.sp), hentries,
    fun r => (hcall.regs r).trans ((u.setTmpA_reg 0 r).trans (hjam.regs r)),
    fun c => (hcall.flags c).trans ((u.setTmpA_cond 0 c).trans (hjam.flags c)),
    fun a => (hcall.mem a).trans (congrArg (fun m : Memory => m.read a) hjam.mem), ?_, SameOffers.trans hjam.offer hoffers, ?_⟩
  · exact NoCycle.trans hjam.cycle hcall.cycle
  · rw [hstates]
    exact congrArg (· + 5) hstates'

/-! ## The start-up -/

theorem State.PowerUp.reg {s : State} (h : s.PowerUp) (r : Reg) : s.reg r = 0 := by
  obtain ⟨hA, hB, hC, hD, hE, hH, hL, _⟩ := h
  cases r
  exacts [hA, hB, hC, hD, hE, hH, hL]

theorem State.PowerUp.pc {s : State} (h : s.PowerUp) : s.pc = 0 := by
  obtain ⟨_, _, _, _, _, _, _, hstk, _⟩ := h
  simp [State.pc, hstk]

/-- A register loaded with its own content leaves every register as it was. -/
theorem LoadsThroughB.sameRegs {d : Reg} {n : Nat} {s t : State} (h : LoadsThroughB d (s.reg d) n s t) : SameRegs s t := by
  intro r
  by_cases hr : r = d
  · rw [hr, h.dest]
  · exact h.others r hr

/-- Settles O15: RST is the jammed RST of O14, and LAA a load that moves nothing. -/
theorem startUpInterruptChoosesTheEntry : Obligations.StartUpInterruptChoosesTheEntry := by
  intro s hup
  refine ⟨fun n hoffer => ?_, fun hoffer => ?_⟩
  · obtain ⟨t, hstep, hstopped, hpc, hsp, hreturn, _, hregs, _⟩ := jammedRestartKeepsTheReturnAddress s n hoffer
    exact ⟨t, hstep, hstopped, hpc, hsp, hreturn.trans hup.pc, fun r => (hregs r).trans (hup.reg r)⟩
  · obtain ⟨u, hstep, hjam⟩ := step_of_jam hoffer rfl (.lr1r2 .A .A)
    have hload := (u.regToB_bringsToB .A).loads .one .A 5
    obtain ⟨hsp, hstk⟩ := hload.stack
    obtain ⟨hsp', hstk'⟩ := hjam.stack
    have hstack : SameStack s _ := ⟨hsp.trans hsp', hstk.trans hstk'⟩
    obtain ⟨_, hstopped, _⟩ := hload.control
    exact ⟨_, hstep, hstopped.trans hjam.stopped, (SameStack.pc hstack).trans hup.pc, hstack,
      fun r => (hload.sameRegs r).trans ((hjam.regs r).trans (hup.reg r))⟩

/-! ## Fetching an instruction from memory -/

/-- Between `s` and `u` the offer of the boundary was taken and `n` bytes were fetched at PC, from memory. IR, the temporaries
and the event history are left open. -/
structure Fetched (n : Nat) (s u : State) : Prop where
  pc : u.pc = s.pc + BitVec.ofNat 14 n
  sp : u.sp = s.sp
  entries : ∀ k : Fin 8, k ≠ s.sp → u.stk[k] = s.stk[k]
  regs : SameRegs s u
  flags : SameFlags s u
  mem : u.mem = s.mem
  memMap : u.memMap = s.memMap
  stopped : u.stopped = s.stopped
  tstate : u.tstate = s.tstate
  cycle : u.cycle = s.cycle
  states : u.states = s.states
  offer : UsedOneOffer s u
  inputs : u.inputs = s.inputs
  draws : u.draws = s.draws
  shows : ShowsNothing s u

theorem State.nextOffer_fetched (s : State) : Fetched 0 s s.nextOffer.2 where
  pc := by simp [State.pc]
  sp := by simp
  entries k _ := by simp
  regs r := by simp
  flags c := by simp
  mem := by simp
  memMap := by simp
  stopped := by simp
  tstate := by simp
  cycle := by simp
  states := by simp
  offer := s.nextOffer_usesPlatform.offer
  inputs := by simp
  draws := by simp
  shows := s.nextOffer_testBus

/-- RAM or ROM stands at the address, and holds the byte. -/
def State.Holds (s : State) (a : Addr) (v : Byte) : Prop := s.HasMemory a ∧ s.mem.read a.toNat = v

theorem Fetched.holds {n : Nat} {s u : State} {v : Byte} (h : Fetched n s u)
    (hv : s.Holds (s.pc + BitVec.ofNat 14 n) v) : u.Holds u.pc v := by
  obtain ⟨hmem, hbyte⟩ := hv
  rw [State.Holds, h.pc, h.mem, s.hasMemory_congr u _ h.memMap]
  exact ⟨hmem, hbyte⟩

/-- One byte more, fetched where memory holds it. -/
theorem Fetched.fetchByte {n : Nat} {s u : State} {v : Byte} (h : Fetched n s u) (hv : u.Holds u.pc v) (k : ReadKind) :
    (u.fetchByte k).1 = v ∧ Fetched (n + 1) s (u.fetchByte k).2 := by
  obtain ⟨hmem, hbyte⟩ := hv
  have hfetch := u.fetchByte_memory k hmem
  obtain ⟨hoffers, hdrawn⟩ := h.offer
  refine ⟨by rw [hfetch]; exact hbyte, ?_⟩
  exact
    { pc := by rw [u.fetchByte_pc, h.pc, BitVec.add_assoc, BitVec.ofNat_add]; rfl
      sp := by simp [h.sp]
      entries := fun m hm => (u.fetchByte_entry k m (by rwa [h.sp])).trans (h.entries m hm)
      regs := fun r => by simp [h.regs r]
      flags := fun c => by simp [h.flags c]
      mem := by simp [h.mem]
      memMap := by simp [h.memMap]
      stopped := by simp [h.stopped]
      tstate := by simp [h.tstate]
      cycle := by simp [h.cycle]
      states := by simp [h.states]
      offer := ⟨by simp [hoffers], by simp [hdrawn]⟩
      inputs := by simp [h.inputs]
      draws := by rw [hfetch]; exact h.draws
      shows := (u.fetchByte_testBus k).trans h.shows }

/-- What the fetch does to IR and the temporaries is left open. -/
theorem Fetched.temps {n : Nat} {s u : State} (h : Fetched n s u) (i a b : Byte) :
    Fetched n s { u with ir := i, tmpA := a, tmpB := b } :=
  ⟨h.pc, h.sp, h.entries, h.regs, h.flags, h.mem, h.memMap, h.stopped, h.tstate, h.cycle, h.states, h.offer, h.inputs,
    h.draws, h.shows⟩

theorem State.fetchByte_events (s : State) (k : ReadKind) : (s.fetchByte k).2.events = .read k s.pc :: s.events := by
  obtain ⟨hevents, _⟩ := s.memRead_spec k s.pc
  exact hevents

/-- Memory cycle one, where memory holds its byte (R110). -/
theorem Fetched.fetchOpcode {n : Nat} {s u : State} {v : Byte} (h : Fetched n s u) (hv : u.Holds u.pc v) :
    u.fetchOpcode.1 = v ∧ Fetched (n + 1) s u.fetchOpcode.2 := by
  obtain ⟨hbyte, hnext⟩ := h.fetchByte hv .pci
  exact ⟨hbyte, hnext.temps _ _ _⟩

theorem Fetched.fetchSecond {n : Nat} {s u : State} {v : Byte} (h : Fetched n s u) (hv : u.Holds u.pc v) :
    u.fetchSecond.1 = v ∧ Fetched (n + 1) s u.fetchSecond.2 := by
  obtain ⟨hbyte, hnext⟩ := h.fetchByte hv .pcr
  exact ⟨hbyte, hnext.temps _ _ _⟩

theorem Fetched.fetchThird {n : Nat} {s u : State} {v : Byte} (h : Fetched n s u) (hv : u.Holds u.pc v) :
    u.fetchThird.1 = v ∧ Fetched (n + 1) s u.fetchThird.2 := by
  obtain ⟨hbyte, hnext⟩ := h.fetchByte hv .pcr
  exact ⟨hbyte, hnext.temps _ _ _⟩

theorem State.fetchInstr_of_one {s : State} (h : insnSize s.fetchOpcode.1 = .one) :
    s.fetchInstr = (decodeOp s.fetchOpcode.1 0 0, s.fetchOpcode.2) := by
  simp [State.fetchInstr, h]

theorem State.fetchInstr_of_two {s : State} (h : insnSize s.fetchOpcode.1 = .two) :
    s.fetchInstr = (decodeOp s.fetchOpcode.1 s.fetchOpcode.2.fetchSecond.1 0, s.fetchOpcode.2.fetchSecond.2) := by
  simp [State.fetchInstr, h]

theorem State.fetchInstr_of_three {s : State} (h : insnSize s.fetchOpcode.1 = .three) :
    s.fetchInstr =
      (decodeOp s.fetchOpcode.1 s.fetchOpcode.2.fetchSecond.1 s.fetchOpcode.2.fetchSecond.2.fetchThird.1,
        s.fetchOpcode.2.fetchSecond.2.fetchThird.2) := by
  simp [State.fetchInstr, h]

theorem State.fetchOpcode_events (s : State) : s.fetchOpcode.2.events = .read .pci s.pc :: s.events :=
  s.fetchByte_events .pci

theorem State.fetchSecond_events (s : State) : s.fetchSecond.2.events = .read .pcr s.pc :: s.events :=
  s.fetchByte_events .pcr

theorem State.fetchThird_events (s : State) : s.fetchThird.2.events = .read .pcr s.pc :: s.events :=
  s.fetchByte_events .pcr

/-- IR, the temporaries and the history after the fetch of the bytes of an instruction, as `StepRunsTheFetchedInstruction` lists
them (R38, R39, R110). -/
def FetchTrace (op b2 b3 : Byte) (s u : State) : Prop :=
  match insnSize op with
  | .one => u.tmpB = op ∧ u.tmpA = s.tmpA ∧ u.events = .read .pci s.pc :: s.events
  | .two => u.tmpB = b2 ∧ u.tmpA = s.tmpA ∧ u.events = .read .pcr (s.pc + 1) :: .read .pci s.pc :: s.events
  | .three => u.tmpB = b2 ∧ u.tmpA = b3 ∧
      u.events = .read .pcr (s.pc + 2) :: .read .pcr (s.pc + 1) :: .read .pci s.pc :: s.events

/-- The fetch of an instruction that memory holds at PC: what it answers, and all it changes. -/
theorem fetchInstr_of_holds {s : State} {op b2 b3 : Byte} {i : Instr} {rest : List Byte}
    (hmem : ∀ k : Nat, k < (insnSize op).bytes → s.Holds (s.pc + BitVec.ofNat 14 k) ([op, b2, b3].getD k 0))
    (hdecode : decode [op, b2, b3] = .ok (i, rest)) :
    ∃ u, s.nextOffer.2.fetchInstr = (i, u) ∧ Fetched (insnSize op).bytes s u ∧ u.ir = op ∧ FetchTrace op b2 b3 s u := by
  have hstart := s.nextOffer_fetched
  obtain ⟨hop, hone⟩ := hstart.fetchOpcode (hstart.holds (v := op) (hmem 0 (by cases insnSize op <;> decide)))
  have hpc : s.nextOffer.2.pc = s.pc := by simp [State.pc]
  cases hsize : insnSize op with
  | one =>
    cases (decode_one [b2, b3] hsize (decodeOp_reads op 0 0)).symm.trans hdecode
    refine ⟨s.nextOffer.2.fetchOpcode.2, ?_, hone, hop, ?_⟩
    · rw [State.fetchInstr_of_one (by rw [hop, hsize]), hop]
    · simp only [FetchTrace, hsize]
      exact ⟨hop, by simp, by simp [State.fetchOpcode_events, hpc]⟩
  | two =>
    cases (decode_two [b3] hsize (decodeOp_reads op b2 0)).symm.trans hdecode
    obtain ⟨hb2, htwo⟩ := hone.fetchSecond (hone.holds (v := b2) (hmem 1 (by rw [hsize]; decide)))
    refine ⟨s.nextOffer.2.fetchOpcode.2.fetchSecond.2, ?_, htwo, by simpa using hop, ?_⟩
    · rw [State.fetchInstr_of_two (by rw [hop, hsize]), hop, hb2]
    · simp only [FetchTrace, hsize]
      exact ⟨hb2, by simp, by simp [State.fetchOpcode_events, State.fetchSecond_events, hpc]⟩
  | three =>
    cases (decode_three [] hsize (decodeOp_reads op b2 b3)).symm.trans hdecode
    obtain ⟨hb2, htwo⟩ := hone.fetchSecond (hone.holds (v := b2) (hmem 1 (by rw [hsize]; decide)))
    obtain ⟨hb3, hthree⟩ := htwo.fetchThird (htwo.holds (v := b3) (hmem 2 (by rw [hsize]; decide)))
    refine ⟨s.nextOffer.2.fetchOpcode.2.fetchSecond.2.fetchThird.2, ?_, hthree, by simpa using hop, ?_⟩
    · rw [State.fetchInstr_of_three (by rw [hop, hsize]), hop, hb2, hb3]
    · simp only [FetchTrace, hsize]
      exact ⟨by simpa using hb2, hb3,
        by simp [State.fetchOpcode_events, State.fetchSecond_events, State.fetchThird_events, hpc, BitVec.add_assoc]⟩

/-- A running machine that no interrupt is presented to runs what it fetches (R239). -/
theorem step_of_running {s : State} (hrun : s.stopped = false) (hnone : s.OffersNone) :
    step s = exec s.nextOffer.2.fetchInstr.1 s.nextOffer.2.fetchInstr.2 := by
  have hnone : s.nextOffer.1 = none := s.nextOffer_fst.trans hnone
  obtain ⟨op, hsome, _⟩ | ⟨_, hstopped, _⟩ | ⟨_, _, hfetch⟩ := step_cases s
  · cases hsome.symm.trans hnone
  · cases hstopped.symm.trans hrun
  · exact hfetch

/-- Settles O9: the fetch, byte by byte, and then the instruction. -/
theorem stepRunsTheFetchedInstruction : Obligations.StepRunsTheFetchedInstruction := by
  intro s op b2 b3 i rest hrun hnone hmem hdecode
  obtain ⟨u, hfetch, h, hir, htrace⟩ := fetchInstr_of_holds hmem hdecode
  have hstep : step s = exec i u := by rw [step_of_running hrun hnone, hfetch]
  have hwf : i.wellFormed = true := by
    obtain ⟨c2, c3, hread⟩ := s.nextOffer.2.fetchInstr_ir
    rw [hfetch] at hread
    obtain ⟨hwf, _⟩ := encodeOfDecodeIsTheBytes u.ir c2 c3
    rwa [← hread] at hwf
  exact ⟨hwf, u, hstep, h.pc, h.sp, h.entries, h.regs, h.flags, h.mem, h.memMap, hir, h.stopped.trans hrun, h.tstate, h.cycle,
    h.states, h.offer, h.inputs, h.draws, h.shows, htrace⟩

/-! ## Placing an instruction -/

theorem State.placeByte_wf (s : State) (a : Addr) (v : Byte) (h : s.mem.wf = true) : (s.placeByte a v).mem.wf = true :=
  Memory.write_wf s.mem a.toNat v h (Addr_toNat_lt a)

/-- The memory map stays where there is memory at the address of the byte placed, and else has the address before it as RAM. -/
theorem State.placeByte_memMap (s : State) (a : Addr) (v : Byte) :
    (s.HasMemory a ∧ (s.placeByte a v).memMap = s.memMap) ∨
      (¬ s.HasMemory a ∧ (s.placeByte a v).memMap = ⟨a.toNat, 1, .ram⟩ :: s.memMap) := by
  cases hk : s.kindAt a <;> simp [State.HasMemory, State.placeByte, hk]

/-- Placing a byte takes no memory away, and gives memory to the address itself (log entry 8). -/
theorem State.placeByte_hasMemory {s : State} {a b : Addr} (h : b = a ∨ s.HasMemory b) (v : Byte) :
    (s.placeByte a v).HasMemory b := by
  obtain ⟨hmem, hmap⟩ | ⟨_, hmap⟩ := s.placeByte_memMap a v
  · have hb : s.HasMemory b := by
      obtain rfl | hb := h
      · exact hmem
      · exact hb
    exact (s.hasMemory_congr _ b hmap).mpr hb
  · by_cases hin : a.toNat ≤ b.toNat ∧ b.toNat < a.toNat + 1
    · exact .inl (by rw [State.kindAt, hmap, kindIn, if_pos hin])
    · have hne : b ≠ a := by
        rintro rfl
        omega
      rw [State.HasMemory, State.kindAt, hmap, kindIn, if_neg hin]
      exact h.resolve_left hne

theorem State.placeByte_holds (s : State) (a : Addr) (v : Byte) (h : s.mem.wf = true) : (s.placeByte a v).Holds a v :=
  ⟨State.placeByte_hasMemory (.inl rfl) v, Memory.read_write_same s.mem a.toNat v h⟩

/-- A byte placed elsewhere leaves what an address holds. -/
theorem State.Holds.placeByte {s : State} {b : Addr} {w : Byte} (h : s.Holds b w) {a : Addr} (hne : b ≠ a) (v : Byte) :
    (s.placeByte a v).Holds b w := by
  obtain ⟨hmem, hbyte⟩ := h
  have hnat : b.toNat ≠ a.toNat := fun e => hne (BitVec.eq_of_toNat_eq e)
  exact ⟨State.placeByte_hasMemory (.inr hmem) v, (Memory.read_write_other s.mem a.toNat b.toNat v hnat).trans hbyte⟩

/-- The three addresses from PC on are three, around the top of the address space too. -/
theorem Addr_next_ne (a : Addr) : a ≠ a + 1 ∧ a ≠ a + 2 ∧ a + 1 ≠ a + 2 := by
  refine ⟨?_, ?_, ?_⟩ <;> bv_omega

/-- Two states alike in what an instruction finds of the processor, and in the offers drawn. -/
structure SameProcessor (s t : State) : Prop where
  regs : SameRegs s t
  flags : SameFlags s t
  sp : t.sp = s.sp
  stk : t.stk = s.stk
  shows : ShowsNothing s t
  drawn : t.offersDrawn = s.offersDrawn

theorem SameProcessor.trans {s t u : State} (h : SameProcessor s t) (k : SameProcessor t u) : SameProcessor s u :=
  ⟨fun r => (k.regs r).trans (h.regs r), fun c => (k.flags c).trans (h.flags c), k.sp.trans h.sp, k.stk.trans h.stk,
    k.shows.trans h.shows, k.drawn.trans h.drawn⟩

theorem State.placeByte_sameProcessor (s : State) (a : Addr) (v : Byte) : SameProcessor s (s.placeByte a v) :=
  ⟨fun r => by cases r <;> rfl, fun c => by cases c <;> rfl, rfl, rfl, rfl, rfl⟩

/-- `loadAtPc` places its three bytes and makes the next boundary one that fetches. -/
theorem State.loadAtPc_facts (s : State) (b1 b2 b3 : Byte) {u : State} (hu : s.loadAtPc b1 b2 b3 = u) :
    SameProcessor s u ∧ u.stopped = false ∧ u.interrupts = none :: s.interrupts ∧
      u.mem = (((s.placeByte s.pc b1).placeByte (s.pc + 1) b2).placeByte (s.pc + 2) b3).mem ∧
      u.memMap = (((s.placeByte s.pc b1).placeByte (s.pc + 1) b2).placeByte (s.pc + 2) b3).memMap := by
  have hplaced := ((s.placeByte_sameProcessor s.pc b1).trans (State.placeByte_sameProcessor _ (s.pc + 1) b2)).trans
    (State.placeByte_sameProcessor _ (s.pc + 2) b3)
  rw [State.loadAtPc] at hu
  generalize ((s.placeByte s.pc b1).placeByte (s.pc + 1) b2).placeByte (s.pc + 2) b3 = t at hu hplaced ⊢
  subst hu
  refine ⟨hplaced.trans ⟨fun r => ?_, fun c => ?_, rfl, rfl, rfl, rfl⟩, rfl, rfl, rfl, rfl⟩
  · cases r <;> rfl
  · cases c <;> rfl

theorem State.Holds.congr {s t : State} {a : Addr} {v : Byte} (h : s.Holds a v) (hmem : t.mem = s.mem)
    (hmap : t.memMap = s.memMap) : t.Holds a v := by
  rw [State.Holds, hmem, s.hasMemory_congr t a hmap]
  exact h

/-- The bytes placed from PC on are held there. -/
theorem State.placeBytes_holds (s : State) (b1 b2 b3 : Byte) (h : s.mem.wf = true) (k : Nat) (hk : k < 3) :
    (((s.placeByte s.pc b1).placeByte (s.pc + 1) b2).placeByte (s.pc + 2) b3).Holds (s.pc + BitVec.ofNat 14 k)
      ([b1, b2, b3].getD k 0) := by
  obtain ⟨h01, h02, h12⟩ := Addr_next_ne s.pc
  have hwf1 := s.placeByte_wf s.pc b1 h
  have hwf2 := State.placeByte_wf _ (s.pc + 1) b2 hwf1
  obtain rfl | rfl | rfl : k = 0 ∨ k = 1 ∨ k = 2 := by omega
  · have hpc : s.pc + BitVec.ofNat 14 0 = s.pc := BitVec.add_zero s.pc
    rw [hpc]
    exact ((s.placeByte_holds s.pc b1 h).placeByte h01 b2).placeByte h02 b3
  · exact (State.placeByte_holds _ (s.pc + 1) b2 hwf1).placeByte h12 b3
  · exact State.placeByte_holds _ (s.pc + 2) b3 hwf2

/-- The bytes the decoder reads of a table word. -/
theorem decode_of_decodeTableWord {nbits w : Nat} {i : Instr} (h : decodeTableWord nbits w = some i) :
    ∃ b2 b3 rest, wordBytes nbits w = (BitVec.ofNat 8 (w % 2 ^ nbits), b2, b3) ∧
      decode [BitVec.ofNat 8 (w % 2 ^ nbits), b2, b3] = .ok (i, rest) := by
  simp only [decodeTableWord, wordBytes] at h
  split at h
  next j rest hread =>
    cases h
    exact ⟨_, _, rest, rfl, hread⟩
  next => cases h

/-- Settles O22: the bytes placed are those the step of O9 finds at PC. -/
theorem placedWordRunsNext : Obligations.PlacedWordRunsNext := by
  intro s nbits w i hwf hdecode
  obtain ⟨b2, b3, rest, hbytes, hdecode⟩ := decode_of_decodeTableWord hdecode
  have hplaced : s.withFetchWord nbits w = s.loadAtPc (BitVec.ofNat 8 (w % 2 ^ nbits)) b2 b3 := by
    rw [State.withFetchWord, hbytes]
  rw [hplaced]
  generalize BitVec.ofNat 8 (w % 2 ^ nbits) = op at hdecode ⊢
  generalize hload : s.loadAtPc op b2 b3 = v
  obtain ⟨⟨hregs, hflags, hsp, hstk, hshows, hdrawn⟩, hrun, hoffers, hvmem, hvmap⟩ := s.loadAtPc_facts op b2 b3 hload
  have hpc : v.pc = s.pc := SameStack.pc ⟨hsp, hstk⟩
  have hnone : v.OffersNone := by rw [State.OffersNone, State.offerAt, hoffers, List.getElem?_cons_zero]
  have hused : SameOffers s (v.afterOffers 1) := by simp [SameOffers, State.afterOffers, hoffers, hdrawn]
  have hmem (k : Nat) (hk : k < (insnSize op).bytes) : v.Holds (v.pc + BitVec.ofNat 14 k) ([op, b2, b3].getD k 0) := by
    rw [hpc]
    exact (s.placeBytes_holds op b2 b3 hwf k (hk.trans_le (insnSize op).bytes_le)).congr hvmem hvmap
  obtain ⟨_, u, hstep, hupc, husp, huentries, huregs, huflags, _, _, _, hurun, _, _, _, huoffers, _, _, hushows, _⟩ :=
    stepRunsTheFetchedInstruction v op b2 b3 i rest hrun hnone hmem hdecode
  refine ⟨u, hstep, fun r => (huregs r).trans (hregs r), fun c => (huflags c).trans (hflags c), husp.trans hsp, ?_,
    by rw [hupc, hpc], SameOffers.trans hused huoffers, hushows.trans hshows, hurun⟩
  intro k hk
  rw [huentries k (by rwa [hsp]), hstk]

end Sys2Proof.Machine
end
